-- ==== Sys2Proof/Word.lean ====
section
/-! DEFINITION. The value types of the block: bytes, 32-bit words, 64-bit command and response words, and the
fixed-size groups of them that the spec names (rules R8, R9, R13: every value is unsigned). -/

namespace Sys2Proof

/-- A message byte (R8). -/
abbrev Byte := BitVec 8

/-- A 32-bit unsigned word of the digest state, the block, the schedule and the constants (R13). -/
abbrev Word := BitVec 32

/-- A 64-bit command word, response word or length counter (R8). -/
abbrev Word64 := BitVec 64

/-- The sixteen words of one block (R37). -/
abbrev Block := Vector Word 16

/-- The sixty-four bytes of the block buffer, in message order (R19). -/
abbrev Buffer := Vector Byte 64

/-- The sixty-four words of the message schedule (R27). -/
abbrev Schedule := Vector Word 64

/-- Eight words. As the digest state the fields are H[0], …, H[7] in this order (R16); as the working variables
they are a, …, h (R26). -/
structure Words8 where
  a : Word
  b : Word
  c : Word
  d : Word
  e : Word
  f : Word
  g : Word
  h : Word
  deriving DecidableEq, Repr

/-- The word with index `i`: `H[i]` of the digest state (R15). -/
def Words8.get (v : Words8) (i : Fin 8) : Word :=
  match i with
  | 0 => v.a
  | 1 => v.b
  | 2 => v.c
  | 3 => v.d
  | 4 => v.e
  | 5 => v.f
  | 6 => v.g
  | 7 => v.h

end Sys2Proof
end

