-- ==== Sys2Proof/Syntax.lean ====
section
/-! DEFINITION. The commands of the block as syntax: one constructor per row of spec/opcode_table.json (R56). -/

namespace Sys2Proof

/-- A command. The operands are those of rule R55. -/
inductive Instr where
  /-- INIT: start a new message (R84). -/
  | init
  /-- ABSORB BYTE: append one message byte (R85). -/
  | absorb (byte : Byte)
  /-- FINISH: end of input (R86). -/
  | finish
  /-- HASH_MEM N: hash the N bytes at MSG[0..N−1] (R87); N is a byte count. -/
  | hashMem (n : Nat)
  /-- RD_DIGEST I: read digest word I (R91). -/
  | rdDigest (i : Fin 8)
  /-- RD_STATUS: read the status word (R92). -/
  | rdStatus
  /-- RD_LEN: read the length counter (R93). -/
  | rdLen
  deriving DecidableEq, Repr

end Sys2Proof
end

