-- ==== Sys2Proof/WellFormed.lean ====
section
/-! DEFINITION. Which commands have an encoding: every operand lies in the range of its field (R55, R61). The
ranges of BYTE and I are their types'; the byte count N of HASH_MEM has 56 bits. -/

namespace Sys2Proof

/-- The operands fit their fields (R55): N of HASH_MEM is at most 2^56 − 1. -/
def Instr.wellFormed : Instr → Bool
  | .init => true
  | .absorb _ => true
  | .finish => true
  | .hashMem n => decide (n < 2 ^ 56)
  | .rdDigest _ => true
  | .rdStatus => true
  | .rdLen => true

end Sys2Proof
end

