-- ==== Sys2Proof/Machine/Operands.lean ====
section
/-! DEFINITION. The fields of a command word and its four operand formats Z, B, N and I (R53 to R55). No operand is
sign-extended, scaled, shifted or split. -/

namespace Sys2Proof

/-- Why a command word is illegal (R96, ERR_CMD). -/
inductive Reject where
  /-- The opcode is 0x00 or one of 0x08 to 0xFF (R58). -/
  | reservedOpcode
  /-- The opcode is defined and a bit that its format marks "must be 0" is 1 (R59). -/
  | operandBitSet
  deriving DecidableEq, Repr

/-- OP, bits 63:56 of the command word (R53). -/
def opcodeField (w : Word64) : BitVec 8 := w.extractLsb' 56 8

/-- The operand, bits 55:0 of the command word (R53). -/
def operandField (w : Word64) : BitVec 56 := w.extractLsb' 0 56

/-- BYTE = cmd[7:0] (R55). -/
def byteField (w : Word64) : Byte := w.extractLsb' 0 8

/-- I = cmd[2:0] (R55). -/
def indexField (w : Word64) : BitVec 3 := w.extractLsb' 0 3

/-- N = zext_64(cmd[55:0]) as a count (R55). -/
def countField (w : Word64) : Nat := (operandField w).toNat

/-- Format Z: all of bits 55:0 must be 0 (R54). -/
def formatZ (w : Word64) (i : Instr) : Except Reject Instr :=
  if operandField w = 0 then .ok i else .error .operandBitSet

/-- Format B: bits 55:8 must be 0 (R54). -/
def formatB (w : Word64) (i : Byte → Instr) : Except Reject Instr :=
  if w.extractLsb' 8 48 = 0 then .ok (i (byteField w)) else .error .operandBitSet

/-- Format N: every operand bit counts (R54). -/
def formatN (w : Word64) (i : Nat → Instr) : Except Reject Instr :=
  .ok (i (countField w))

/-- Format I: bits 55:3 must be 0 (R54). -/
def formatI (w : Word64) (i : Fin 8 → Instr) : Except Reject Instr :=
  if w.extractLsb' 3 53 = 0 then .ok (i (indexField w).toFin) else .error .operandBitSet

end Sys2Proof
end

