-- ==== Sys2Proof/Decode.lean ====
section
/-! DEFINITION. Command words to commands and back (R53 to R60). Decoding is total: a word that is no command is
rejected by name, and the machine answers it with ERR_CMD (R58, R59). -/

namespace Sys2Proof

/-- The command a word stands for: decoded by OP alone, then the operand is checked against the opcode's format
(R56, R60). -/
def decode (w : Word64) : Except Reject Instr :=
  let op := opcodeField w
  if op = 0x01 then formatZ w .init
  else if op = 0x02 then formatB w .absorb
  else if op = 0x03 then formatZ w .finish
  else if op = 0x04 then formatN w .hashMem
  else if op = 0x05 then formatI w .rdDigest
  else if op = 0x06 then formatZ w .rdStatus
  else if op = 0x07 then formatZ w .rdLen
  else .error .reservedOpcode

/-- The opcode of a command (R56). -/
def opcodeOf : Instr → BitVec 8
  | .init => 0x01
  | .absorb _ => 0x02
  | .finish => 0x03
  | .hashMem _ => 0x04
  | .rdDigest _ => 0x05
  | .rdStatus => 0x06
  | .rdLen => 0x07

/-- The 56 operand bits of a command, the unused ones 0 (R54). -/
def operandOf : Instr → BitVec 56
  | .init => 0
  | .absorb byte => byte.setWidth 56
  | .finish => 0
  | .hashMem n => BitVec.ofNat 56 n
  | .rdDigest i => BitVec.ofNat 56 i.val
  | .rdStatus => 0
  | .rdLen => 0

/-- The command word of a command: OP in bits 63:56, the operand in bits 55:0 (R53). -/
def encode (i : Instr) : Word64 := opcodeOf i ++ operandOf i

/-- A row of the opcode map as match and mask (R56): a word `w` is the instruction when w & mask = match. -/
structure OpcodeRow where
  matchBits : Word64
  maskBits : Word64
  deriving DecidableEq, Repr

/-- The rows of the match and mask table of R56, in its order. -/
def opcodeRows : List OpcodeRow :=
  [ ⟨0x0100000000000000, 0xFFFFFFFFFFFFFFFF⟩,
    ⟨0x0200000000000000, 0xFFFFFFFFFFFFFF00⟩,
    ⟨0x0300000000000000, 0xFFFFFFFFFFFFFFFF⟩,
    ⟨0x0400000000000000, 0xFF00000000000000⟩,
    ⟨0x0500000000000000, 0xFFFFFFFFFFFFFFF8⟩,
    ⟨0x0600000000000000, 0xFFFFFFFFFFFFFFFF⟩,
    ⟨0x0700000000000000, 0xFFFFFFFFFFFFFFFF⟩ ]

/-- `w` is an instruction of the row (R56). -/
def rowMatches (r : OpcodeRow) (w : Word64) : Bool := w &&& r.maskBits = r.matchBits

/-- Two rows have no word in common: they differ in a bit that both fix (R56). -/
def rowsDisjoint (r r' : OpcodeRow) : Bool :=
  (r.matchBits ^^^ r'.matchBits) &&& (r.maskBits &&& r'.maskBits) != 0

/-- The command word whose bits are `w`, the bits from `nbits` on being 0 (the host's numbering of the table). -/
def tableWord (nbits w : Nat) : Word64 := BitVec.ofNat 64 (w % 2 ^ nbits)

/-- The command that the decoder reads from a table row's word, none where it rejects the word. -/
def decodeTableWord (nbits w : Nat) : Option Instr :=
  match decode (tableWord nbits w) with
  | .ok i => some i
  | .error _ => none

end Sys2Proof
end

