-- ==== Sys2Proof/Config.lean ====
section
/-! DEFINITION. What is fixed for one block (the parameters of R8) and the free values: what the spec leaves
unspecified is an opaque constant without a body, so that no proof can see it. -/

namespace Sys2Proof

/-- `LEN_MAX` = 2^61 − 1, the largest message length in bytes (R8, R21). -/
def Config.lenMax : Word64 := 0x1fffffffffffffff

/-- `MA_W`, the address width of the message memory, of the block that `State.reset` describes.
DESIGN CHOICE, unsafe (log entry 1): R8 leaves MA_W open between 0 and 56. It is a field of State that no step
writes, every statement holds for each of its values, and only `State.reset` takes this one, the width that
95_test_vectors.md uses. -/
def Config.maW : Fin 57 := 4

/-- FREE VALUE (log entry 2, safe): the word that the hidden engine register number `reg` holds after the
compression with the draw number `draw` has ended; R26 and R27 leave it unspecified. -/
opaque Config.hiddenWord (draw reg : Nat) : Word

/-- FREE VALUE (log entry 2, safe): what the round counter t holds while the engine is IDLE (R28). -/
opaque Config.hiddenCount (draw : Nat) : BitVec 7

/-- FREE VALUE (log entry 3, safe): the byte that the HASH_MEM with the draw number `epoch` reads at an address of
MSG that the host has never written (R33; U3 of 93_implementation_defined.md: "a draw per byte"). -/
opaque Config.unwrittenByte (epoch addr : Nat) : Byte

end Sys2Proof
end

