-- ==== Sys2Proof/Machine/State.lean ====
section
/-! DEFINITION. The state of the block as plain data (R14, R29, R33), the reasons a step can stop, and the state
after reset (R31, R110). -/

namespace Sys2Proof.Machine

/-- The tri-state completion flag FLAG (R22). -/
inductive CompletionFlag where
  /-- STREAMING: the message is open. -/
  | streaming
  /-- PAD_FITS: the message was closed with one final block. -/
  | padFits
  /-- PAD_SPILLS: the message was closed with two final blocks. -/
  | padSpills
  deriving DecidableEq, Repr

/-- The four error causes (R96). -/
inductive ErrorCause where
  /-- ERR_CMD: illegal command word. -/
  | cmd
  /-- ERR_SEQ: ABSORB or FINISH after the message was closed. -/
  | seq
  /-- ERR_LEN: the length counter would exceed LEN_MAX. -/
  | len
  /-- ERR_RANGE: the HASH_MEM length exceeds MSG_SIZE. -/
  | range
  deriving DecidableEq, Repr

/-- The four sticky error bits (R24). -/
structure ErrorBits where
  cmd : Bool
  seq : Bool
  len : Bool
  range : Bool
  deriving DecidableEq, Repr

/-- The phase of the compression engine (R28, R78). -/
inductive Phase where
  | idle
  | load
  | round
  | add
  deriving DecidableEq, Repr

/-- The hidden state of the compression engine: the working variables a..h and the temporaries T1, T2 (R26), the
schedule W (R27), the round counter t and the phase (R28). -/
structure Engine where
  vars : Words8
  t1 : Word
  t2 : Word
  w : Schedule
  t : BitVec 7
  phase : Phase
  deriving DecidableEq, Repr

/-- The sequencer position: how far the command in progress has come (R29). `bulk` is the N of the HASH_MEM whose
final blocks are being compressed, none for a FINISH. -/
inductive SequencerPosition where
  /-- No command is in progress. -/
  | idle
  /-- The command word `word` has been accepted and nothing of it is done yet. -/
  | accepted (word : Word64)
  /-- ABSORB: the block that its byte completed is being compressed. -/
  | absorbBlock
  /-- HASH_MEM N: the next message-memory address to read is `addr`. -/
  | readMsg (n addr : Nat)
  /-- HASH_MEM N: a full block is being compressed, `addr` is read next. -/
  | bulkBlock (n addr : Nat)
  /-- The first of two final blocks, without a length field, is being compressed. -/
  | finalFirst (bulk : Option Nat)
  /-- The last block, with the length field, is being compressed. -/
  | finalLast (bulk : Option Nat)
  deriving DecidableEq, Repr

/-- What the block samples of its input ports at a rising edge of clk (R50). `msg_rdata` is no field: with
msg_ack = 1 it is the byte that MSG holds at msg_addr (R43; a memory that answers another byte is outside the spec,
U5 of 93_implementation_defined.md). -/
structure PortIn where
  rst : Bool
  cmdValid : Bool
  cmdData : Word64
  rspReady : Bool
  msgAck : Bool
  deriving DecidableEq, Repr

/-- What the block drives on its output ports (R50). `msg_addr` is given as a number, and is 0 when `msg_req` is 0
(log entry 15). -/
structure PortOut where
  cmdReady : Bool
  rspValid : Bool
  rspData : Word64
  msgReq : Bool
  msgAddr : Nat
  deriving DecidableEq, Repr

/-- What happens next, the world's moves and the block's own progress interleaved (R120). -/
inductive Event where
  /-- A transaction (R7): the host offers the command word and holds it until it is accepted (R113), the command is
  done as one atomic step, and the host takes its response. -/
  | transact (word : Word64)
  /-- A rising edge of clk with these inputs sampled (R50 to R52, R109). -/
  | edge (pins : PortIn)
  /-- The block does one phase step of the command in progress (R78). -/
  | work
  /-- The host writes a byte of MSG by its own path (R33). -/
  | writeMsg (addr : Nat) (byte : Byte)
  deriving DecidableEq, Repr

/-- The machine. The fields are the state of R14, R29 and R33, then the parameter MA_W (R8), then what the model
itself adds: the host's side of the ports (the events to come, the command word it holds, and its record of the
responses it has taken, R119), and the two draw numbers of the free values. -/
structure State where
  /-- H[0..7] (R16). -/
  h : Words8
  /-- BUF[0..63] (R19). -/
  buf : Buffer
  /-- IDX (R20). -/
  idx : Fin 64
  /-- LEN, a count of bytes (R21). -/
  len : Word64
  /-- FLAG (R22). -/
  flag : CompletionFlag
  /-- ERR_CMD, ERR_SEQ, ERR_LEN, ERR_RANGE (R24). -/
  err : ErrorBits
  /-- a..h, T1, T2, W, t and the engine phase (R26 to R28). -/
  engine : Engine
  /-- BUSY (R29). -/
  busy : Bool
  /-- RSP_PENDING (R29). -/
  rspPending : Bool
  /-- RSP_DATA (R29). Without a pending response it is the last one (log entries 5 and 17). -/
  rspData : Word64
  /-- The sequencer position (R29), idle without a command in progress (log entries 5 and 17). -/
  pos : SequencerPosition
  /-- MSG: the bytes the host has written, addresses strictly rising (R33). -/
  msg : List Host.Cell
  /-- MA_W, fixed when the block is built (R8, R112). -/
  maW : Fin 57
  /-- The events to come, the next one first. -/
  events : List Event
  /-- The command word that the host presents at cmd_data with cmd_valid = 1 and that is not accepted yet, as the last
  rising edge has shown it (R113; log entry 16). -/
  offered : Option Word64
  /-- The responses the host has taken, the first one first (R119). -/
  responses : List Word64
  /-- The number of the next draw for the hidden engine state (log entry 2). -/
  draw : Nat
  /-- The number of the next HASH_MEM's draw for unwritten bytes of MSG (log entry 3). -/
  msgEpoch : Nat
  deriving DecidableEq, Repr

/-- Why the machine stops with a fault. -/
inductive Fault where
  /-- An address of MSG that does not exist (R33, R34: MSG has the addresses 0 to MSG_SIZE − 1). Raised by a host
  write there, and by a read of a HASH_MEM in progress, which no state reachable from reset makes (R34). Safe: the
  model stops. -/
  | msgAddressOutside
  deriving DecidableEq, Repr

/-- Why the machine gives a step no meaning. -/
inductive Refusal where
  /-- Dispatch has no meaning for the instruction yet. No arm answers it. Safe: the model stops. -/
  | notModelled (mnemonic : String)
  /-- The host writes MSG[0..N−1] while HASH_MEM N is in progress (R115: "a model refuses such a host write"; U4 of
  93_implementation_defined.md). Raised by the host's write event alone. Unsafe for a host that does write there:
  such a run is not modelled (log entry 4). -/
  | msgWriteDuringHash
  /-- The host writes MSG[0..N−1] after it has presented HASH_MEM N and before that word is accepted (R47, R112: it
  completes these writes before; D12 of 92_eei_decisions.md: "a model gives the host no move that breaks this").
  Raised by the host's write event alone. Unsafe for a host that does write there: such a run is not modelled (log
  entry 16). -/
  | msgWriteAfterOffer
  deriving DecidableEq, Repr

/-- No error bit is set. -/
def noErrors : ErrorBits := ⟨false, false, false, false⟩

/-- 64 bytes of 0x00. -/
def zeroBuffer : Buffer := Vector.replicate 64 0

/-- The engine after reset: IDLE (R31). The other fields, which R31 leaves unspecified, are named 0
(DESIGN CHOICE, log entry 5). -/
def resetEngine : Engine where
  vars := ⟨0, 0, 0, 0, 0, 0, 0, 0⟩
  t1 := 0
  t2 := 0
  w := Vector.replicate 64 0
  t := 0
  phase := .idle

/-- The state after reset of a block built with the address width `maW` (R31, R110). RSP_DATA, unspecified there,
is named 0 (DESIGN CHOICE, log entry 5); the host has written nothing yet and offers nothing yet. -/
def State.resetWith (maW : Fin 57) : State where
  h := iv
  buf := zeroBuffer
  idx := 0
  len := 0
  flag := .streaming
  err := noErrors
  engine := resetEngine
  busy := false
  rspPending := false
  rspData := 0
  pos := .idle
  msg := []
  maW := maW
  events := []
  offered := none
  responses := []
  draw := 0
  msgEpoch := 0

/-- The machine right after reset (R31). -/
def State.reset : State := State.resetWith Config.maW

end Sys2Proof.Machine
end

