-- ==== Sys2Proof/Machine/Flags.lean ====
section
/-! DEFINITION. The completion flag, the error bits and the status word (R22 to R25, R96). -/

namespace Sys2Proof.Machine

/-- The 2-bit encoding of FLAG (R22). -/
def CompletionFlag.bits : CompletionFlag → BitVec 2
  | .streaming => 0b00
  | .padFits => 0b01
  | .padSpills => 0b10

/-- FLAG after the boundary decision at byte index `i` (R80): below 56 the length field fits. -/
def paddingFlag (i : Nat) : CompletionFlag := if i < 56 then .padFits else .padSpills

/-- DONE = (FLAG ≠ STREAMING), not stored (R23). -/
def State.done (s : State) : Bool := s.flag != .streaming

/-- ERR ≠ 0 (R24). -/
def ErrorBits.any (e : ErrorBits) : Bool := e.cmd || e.seq || e.len || e.range

/-- ERR = {ERR_RANGE, ERR_LEN, ERR_SEQ, ERR_CMD} (R24). -/
def ErrorBits.bits (e : ErrorBits) : BitVec 4 :=
  BitVec.ofBool e.range ++ BitVec.ofBool e.len ++ BitVec.ofBool e.seq ++ BitVec.ofBool e.cmd

/-- The error bits with the bit of `cause` set, the others as they were (R24, R96). -/
def ErrorBits.set (e : ErrorBits) : ErrorCause → ErrorBits
  | .cmd => { e with cmd := true }
  | .seq => { e with seq := true }
  | .len => { e with len := true }
  | .range => { e with range := true }

/-- STATUS = zext_64({ERR_RANGE, ERR_LEN, ERR_SEQ, ERR_CMD, 0b0000000, IDX[5:0], FLAG[1:0], DONE}) (R25). -/
def State.status (s : State) : Word64 :=
  BitVec.setWidth 64
    (s.err.bits ++ 0#7 ++ BitVec.ofNat 6 s.idx.val ++ s.flag.bits ++ BitVec.ofBool s.done)

end Sys2Proof.Machine
end

