-- ==== Sys2Proof/Machine/Memory.lean ====
section
/-! DEFINITION. The message memory MSG (R33, R34, R43): a sorted list of the bytes the host has written. -/

namespace Sys2Proof.Machine

/-- The canonical form: addresses strictly rising. An unlisted address reads as "not yet written", which no entry
equals, so equal memories are equal lists. -/
def Memory.wf : List Host.Cell → Bool
  | [] => true
  | [_] => true
  | x :: y :: rest => decide (x.1 < y.1) && Memory.wf (y :: rest)

/-- Every listed address is one of the first `size` addresses. -/
def Memory.within (mem : List Host.Cell) (size : Nat) : Bool := mem.all fun cell => decide (cell.1 < size)

/-- The byte the host last wrote at `addr`, none where it has written nothing yet (R33). This is what an unlisted
address reads as. -/
def Memory.lookup : List Host.Cell → Nat → Option Byte
  | [], _ => none
  | (a, b) :: rest, addr => if a = addr then some b else Memory.lookup rest addr

/-- The memory after the byte `byte` is written at `addr`, in canonical form. -/
def Memory.write : List Host.Cell → Nat → Byte → List Host.Cell
  | [], addr, byte => [(addr, byte)]
  | (a, b) :: rest, addr, byte =>
    if addr < a then (addr, byte) :: (a, b) :: rest
    else if addr = a then (addr, byte) :: rest
    else (a, b) :: Memory.write rest addr byte

/-- MSG_SIZE = 2^MA_W (R8, R33). -/
def State.msgSize (s : State) : Nat := 2 ^ s.maW.val

/-- `MemRead(addr, 1)` (R34): the byte last written at `addr`; where the host has written none, a free value that is
one byte per address for the whole of one HASH_MEM (R33, R43; log entry 3). -/
def State.memRead (s : State) (addr : Nat) : Byte :=
  (Memory.lookup s.msg addr).getD (Config.unwrittenByte s.msgEpoch addr)

/-- The message of HASH_MEM N: MemRead(0,1) ++ … ++ MemRead(N−1,1), in increasing order (R44, R87). -/
def State.message (s : State) (n : Nat) : List Byte := (List.range n).map s.memRead

end Sys2Proof.Machine
end

