-- ==== Sys2Proof/Machine/Bytes.lean ====
section
/-! DEFINITION. Byte order, in one place (R12, R37 to R40): words of the block, the length field and the digest are
big-endian. -/

namespace Sys2Proof.Machine

/-- `be32(b0, b1, b2, b3)` = {b0, b1, b2, b3}: the first byte is the most significant (R12). -/
def be32 (b0 b1 b2 b3 : Byte) : Word := b0 ++ b1 ++ b2 ++ b3

/-- Byte `k` (0 to 3) of `be32_bytes(w)`: w[31 − 8k : 24 − 8k] (R12). -/
def be32Byte (w : Word) (k : Nat) : Byte := w.extractLsb' (24 - 8 * k) 8

/-- Byte `k` (0 to 7) of `be64_bytes(v)`: v[63 − 8k : 56 − 8k] (R12). -/
def be64Byte (v : Word64) (k : Nat) : Byte := v.extractLsb' (56 - 8 * k) 8

/-- `be64_bytes(v)`: the eight bytes of `v`, the most significant first (R12). -/
def be64Bytes (v : Word64) : List Byte := (List.range 8).map (be64Byte v)

/-- Word `j` of a byte sequence read from `at0` on: the four bytes from at0 + 4j, big-endian (R37). A byte that the
sequence does not have reads as 0; a block has all its 64 bytes. -/
def wordAt (bytes : List Byte) (at0 j : Nat) : Word :=
  be32 (bytes.getD (at0 + 4 * j) 0) (bytes.getD (at0 + 4 * j + 1) 0)
    (bytes.getD (at0 + 4 * j + 2) 0) (bytes.getD (at0 + 4 * j + 3) 0)

/-- The block of the 64 bytes from `at0` on (R37, R87). -/
def blockAt (bytes : List Byte) (at0 : Nat) : Block := Vector.ofFn fun j => wordAt bytes at0 j.val

/-- `words(BUF)`: the sixteen big-endian words of the block buffer (R37). -/
def bufferWords (buf : Buffer) : Block := blockAt buf.toList 0

/-- Digest byte `k`, for k = 0..31: byte k mod 4 of H[k div 4], most significant first (R39). -/
def digestByte (h : Words8) (k : Fin 32) : Byte :=
  be32Byte (h.get ⟨k.val / 4, by omega⟩) (k.val % 4)

/-- The 32-byte digest that a digest state stands for (R39). -/
def digestBytes (h : Words8) : Vector Byte 32 := Vector.ofFn (digestByte h)

end Sys2Proof.Machine
end

