-- ==== Sys2Proof/Machine/Compressor.lean ====
section
/-! DEFINITION. The compression function and the message schedule expander as pure functions (R63 to R77). They are
total: no input fails (R77). -/

namespace Sys2Proof.Machine

/-- `rotr(x, n)`, the 32-bit right rotation, for 0 < n < 32 (R63). -/
def rotr (x : Word) (n : Nat) : Word := (x >>> n) ||| (x <<< (32 - n))

/-- `x >> n`, the logical right shift (R64). -/
def shr (x : Word) (n : Nat) : Word := x >>> n

/-- `ch(x, y, z)` (R66). -/
def ch (x y z : Word) : Word := (x &&& y) ^^^ (~~~x &&& z)

/-- `maj(x, y, z)` (R67). -/
def maj (x y z : Word) : Word := (x &&& y) ^^^ (x &&& z) ^^^ (y &&& z)

/-- `bsig0(x)` (R68). -/
def bsig0 (x : Word) : Word := rotr x 2 ^^^ rotr x 13 ^^^ rotr x 22

/-- `bsig1(x)` (R69). -/
def bsig1 (x : Word) : Word := rotr x 6 ^^^ rotr x 11 ^^^ rotr x 25

/-- `ssig0(x)` (R70). -/
def ssig0 (x : Word) : Word := rotr x 7 ^^^ rotr x 18 ^^^ shr x 3

/-- `ssig1(x)` (R71). -/
def ssig1 (x : Word) : Word := rotr x 17 ^^^ rotr x 19 ^^^ shr x 10

/-- The word W[i] that four earlier words give: ssig1(W[i−2]) + W[i−7] + ssig0(W[i−15]) + W[i−16] (R73). -/
def scheduleSum (w2 w7 w15 w16 : Word) : Word := ssig1 w2 + w7 + ssig0 w15 + w16

/-- W[i], for i from 16 on, out of the words before it (R73). -/
def scheduleWord (w : Schedule) (i : Nat) : Word :=
  scheduleSum (w.getD (i - 2) 0) (w.getD (i - 7) 0) (w.getD (i - 15) 0) (w.getD (i - 16) 0)

/-- The loop of R73: the `k` words from index `i` on, in order. -/
def expandFrom : Nat → Nat → Schedule → Schedule
  | 0, _, w => w
  | k + 1, i, w => expandFrom k (i + 1) (w.setIfInBounds i (scheduleWord w i))

/-- A schedule whose words 0 to 15 are the block's and whose other words are those of `w` (R73, R78 LOAD). -/
def loadSchedule (m : Block) (w : Schedule) : Schedule :=
  Vector.ofFn fun i => if h : i.val < 16 then m[i.val] else w[i.val]

/-- `expand(M[0..15]) -> W[0..63]` (R73). -/
def expand (m : Block) : Schedule :=
  expandFrom 48 16 (loadSchedule m (Vector.replicate 64 0))

/-- T1 of round t (R75). -/
def roundT1 (t : Nat) (v : Words8) (wt : Word) : Word :=
  v.h + bsig1 v.e + ch v.e v.f v.g + roundConstant t + wt

/-- T2 of a round (R75). -/
def roundT2 (v : Words8) : Word := bsig0 v.a + maj v.a v.b v.c

/-- The working variables after a round whose temporaries are `t1` and `t2`: a simultaneous assignment (R75). -/
def rotateVars (v : Words8) (t1 t2 : Word) : Words8 where
  a := t1 + t2
  b := v.a
  c := v.b
  d := v.c
  e := v.d + t1
  f := v.e
  g := v.f
  h := v.g

/-- `round(t, (a, …, h), Wt)` (R75). -/
def compressionRound (t : Nat) (v : Words8) (wt : Word) : Words8 :=
  rotateVars v (roundT1 t v wt) (roundT2 v)

/-- The `k` rounds from round `t` on (R76). -/
def roundsFrom : Nat → Nat → Schedule → Words8 → Words8
  | 0, _, _, v => v
  | k + 1, t, w, v => roundsFrom k (t + 1) w (compressionRound t v (w.getD t 0))

/-- Elementwise wraparound addition of the old state and the working variables (R65, R76). -/
def addWords (x y : Words8) : Words8 where
  a := x.a + y.a
  b := x.b + y.b
  c := x.c + y.c
  d := x.d + y.d
  e := x.e + y.e
  f := x.f + y.f
  g := x.g + y.g
  h := x.h + y.h

/-- `compress(Hin[0..7], M[0..15]) -> Hout[0..7]` (R76). It is irreducible so that no proof
unfolds its 64 rounds by accident; the kernel evaluates it on numerals. -/
@[irreducible] def compress (h : Words8) (m : Block) : Words8 :=
  addWords h (roundsFrom 64 0 (expand m) h)

/-- The 16-word window V after round t has formed its word (R74): unchanged for t < 16, and else with
V[t mod 16] set from V[(t−2) mod 16], V[(t−7) mod 16], V[(t−15) mod 16] and V[t mod 16]. -/
def windowUpdate (v : Block) (t : Nat) : Block :=
  if t < 16 then v
  else v.setIfInBounds (t % 16)
    (scheduleSum (v.getD ((t - 2) % 16) 0) (v.getD ((t - 7) % 16) 0) (v.getD ((t - 15) % 16) 0)
      (v.getD (t % 16) 0))

/-- The window after the first `t` rounds (R74): V[0..15] = M[0..15] before round 0. -/
def windowAfter (m : Block) : Nat → Block
  | 0 => m
  | t + 1 => windowUpdate (windowAfter m t) t

/-- The word that round t uses when the schedule is held as a 16-word window (R74). -/
def windowWord (m : Block) (t : Nat) : Word := (windowAfter m (t + 1)).getD (t % 16) 0

end Sys2Proof.Machine
end

