-- ==== Sys2Proof/Machine/Padding.lean ====
section
/-! DEFINITION. The padded message, its blocks and the digest of a message as pure functions (R79 to R81, R89). -/

namespace Sys2Proof.Machine

/-- z = (55 − N) mod 64, the number of zero bytes of the padding (R79). -/
def padZeros (n : Nat) : Nat := ((55 - (n : Int)) % 64).toNat

/-- P(m) = m ++ [0x80] ++ [0x00]^z ++ be64_bytes(8·N) (R79). -/
def padded (m : List Byte) : List Byte :=
  m ++ [0x80] ++ List.replicate (padZeros m.length) 0 ++ be64Bytes (BitVec.ofNat 64 (8 * m.length))

/-- The blocks of a byte sequence whose length is a multiple of 64: block k is its bytes 64k to 64k + 63 (R87). -/
def blocksOf (bytes : List Byte) : List Block :=
  (List.range (bytes.length / 64)).map fun k => blockAt bytes (64 * k)

/-- The number of blocks compressed for a message of N bytes: floor(N / 64) + 1 + s (R81). -/
def blockCount (n : Nat) : Nat := n / 64 + 1 + (if 56 ≤ n % 64 then 1 else 0)

/-- The chaining value after compressing `blocks` in order from `h` (R46, R87). -/
def compressAll (h : Words8) (blocks : List Block) : Words8 := blocks.foldl compress h

/-- `frame_and_digest(m)`, the SHA-256 digest of the message m as eight words (R79, R89). -/
def sha256 (m : List Byte) : Words8 := compressAll iv (blocksOf (padded m))

/-- The chaining value while the message m is open: the full blocks of m compressed in order from IV (R16, R82). -/
def chainingValue (m : List Byte) : Words8 :=
  compressAll iv ((List.range (m.length / 64)).map fun k => blockAt m (64 * k))

end Sys2Proof.Machine
end

