-- ==== Sys2Proof/Machine/Ops.lean ====
section
/-! DEFINITION. The shared operations of the commands: responding, raising an error, the checks in their order of
priority, starting a message, one compression, and the two internal framer actions (R11, R52, R82, R83, R96 to
R100). -/

namespace Sys2Proof.Machine

/-- What a meaning answers. -/
abbrev Result := Host.Outcome State Fault Refusal

/-- `respond(v)` (R11, R52): the effects are complete, the response word `v` is offered and the command is over.
DESIGN CHOICE, unsafe for a claim that reads it (log entry 17): the sequencer position between two commands, any value
by U1 of 93_implementation_defined.md, is idle. -/
def State.respond (s : State) (v : Word64) : State :=
  { s with rspData := v, rspPending := true, busy := false, pos := .idle }

/-- Respond with STATUS after the effects so far (R57). -/
def State.respondStatus (s : State) : State := s.respond s.status

/-- `raise Error(E)` (R11, R97), the one way an error is taken: set its sticky bit, change nothing else, and answer
STATUS, in which the bit is already set. -/
def State.raise (s : State) (cause : ErrorCause) : State :=
  { s with err := s.err.set cause }.respondStatus

/-- What the checks of R100 decide for a legal command word. -/
inductive Verdict where
  /-- Step 6: the command is performed. -/
  | perform
  /-- Step 3: an error bit is set, and the command does nothing (R98). -/
  | gated
  /-- Steps 2, 4 and 5: the command raises this error. -/
  | error (cause : ErrorCause)
  deriving DecidableEq, Repr

/-- The checks of ABSORB, steps 3 to 5 of R100 (R85). -/
def State.absorbCheck (s : State) : Verdict :=
  if s.err.any then .gated
  else if s.flag ≠ .streaming then .error .seq
  else if s.len = Config.lenMax then .error .len
  else .perform

/-- The checks of FINISH, steps 3 and 4 of R100 (R86). -/
def State.finishCheck (s : State) : Verdict :=
  if s.err.any then .gated
  else if s.flag ≠ .streaming then .error .seq
  else .perform

/-- The check of HASH_MEM, step 2 of R100 (R87). -/
def State.hashCheck (s : State) (n : Nat) : Verdict :=
  if s.msgSize < n then .error .range else .perform

/-- The state after a command whose checks gave `v` and which, when it is performed, leads to `performed`: a gated
command answers STATUS alone (R98), an erroring one raises its error (R97). -/
def State.guarded (s : State) (v : Verdict) (performed : State) : State :=
  match v with
  | .perform => performed
  | .gated => s.respondStatus
  | .error cause => s.raise cause

/-- A new message: H <- IV, BUF, IDX and LEN <- 0, FLAG <- STREAMING, the error bits <- 0 (R84). -/
def State.startMessage (s : State) : State :=
  { s with h := iv, buf := zeroBuffer, idx := 0, len := 0, flag := .streaming, err := noErrors }

/-- The engine when a compression has ended: IDLE, its working state unspecified (R26 to R28), that is, the free
values of the draw `d` (log entry 2). -/
def releasedEngine (d : Nat) : Engine where
  vars := ⟨Config.hiddenWord d 0, Config.hiddenWord d 1, Config.hiddenWord d 2, Config.hiddenWord d 3,
    Config.hiddenWord d 4, Config.hiddenWord d 5, Config.hiddenWord d 6, Config.hiddenWord d 7⟩
  t1 := Config.hiddenWord d 8
  t2 := Config.hiddenWord d 9
  w := Vector.ofFn fun i => Config.hiddenWord d (10 + i.val)
  t := Config.hiddenCount d
  phase := .idle

/-- The end of a compression: the engine is IDLE with unspecified working state, and the next draw is another. -/
def State.releaseEngine (s : State) : State :=
  { s with engine := releasedEngine s.draw, draw := s.draw + 1 }

/-- One compression of the block `m`: H <- compress(H, m), the only update of H but the loading of IV (R16, R76). -/
def State.compressBlock (s : State) (m : Block) : State :=
  { s with h := compress s.h m }.releaseEngine

/-- H <- compress(H, words(BUF)) (R82, R83). -/
def State.compressBuf (s : State) : State := s.compressBlock (bufferWords s.buf)

/-- BUF[IDX] <- b, IDX <- IDX + 1, LEN <- LEN + 1 (R82). IDX has six bits: 63 + 1, the value 64 of R82 at which the
block is compressed, is 0 in it (R20). -/
def State.storeByte (s : State) (byte : Byte) : State :=
  { s with buf := s.buf.set s.idx.val byte s.idx.isLt, idx := s.idx + 1, len := s.len + 1 }

/-- `absorb_byte(b)` (R82): the byte that makes IDX 64 has the block compressed at once. -/
def State.absorbByte (s : State) (byte : Byte) : State :=
  if s.idx.val + 1 = 64 then
    { (s.storeByte byte).compressBuf with buf := zeroBuffer, idx := 0 }
  else s.storeByte byte

/-- The buffer with the terminator byte 0x80 at index `i` and 0x00 after it (R83). -/
def terminate (buf : Buffer) (i : Nat) : Buffer :=
  Vector.ofFn fun j => if j.val < i then buf[j.val] else if j.val = i then 0x80 else 0x00

/-- BUF[56..63] <- be64_bytes(v) (R38, R83). -/
def putLength (buf : Buffer) (v : Word64) : Buffer :=
  Vector.ofFn fun j => if j.val < 56 then buf[j.val] else be64Byte v (j.val - 56)

/-- LEN · 8, the message length in bits as the 64-bit length field holds it (R38). -/
def State.bitLength (s : State) : Word64 := BitVec.ofNat 64 (s.len.toNat * 8)

/-- `finish()` (R83): the boundary policy of R80 applied to the partial block. -/
def State.finishMessage (s : State) : State :=
  let tail := terminate s.buf s.idx.val
  if s.idx.val < 56 then
    let s1 := { s with flag := .padFits, buf := putLength tail s.bitLength }.compressBuf
    { s1 with buf := zeroBuffer, idx := 0 }
  else
    let s1 := { s with flag := .padSpills, buf := tail }.compressBuf
    let s2 := { s1 with buf := putLength zeroBuffer s.bitLength }.compressBuf
    { s2 with buf := zeroBuffer, idx := 0 }

/-- The compressions of HASH_MEM (R87): H <- IV, then the blocks of P(m) in order. -/
def State.hashBlocks (s : State) (m : List Byte) : State :=
  (blocksOf (padded m)).foldl State.compressBlock { s with h := iv }

/-- HASH_MEM N performed (R87), but for its response. The draw for the unwritten bytes it may have read is used up
(log entry 3). -/
def State.hashMessage (s : State) (n : Nat) : State :=
  { s.hashBlocks (s.message n) with
    len := BitVec.ofNat 64 n
    idx := 0
    buf := zeroBuffer
    flag := paddingFlag (n % 64)
    err := noErrors
    msgEpoch := s.msgEpoch + 1 }

end Sys2Proof.Machine
end

