-- ==== Sys2Proof/Machine/Framer.lean ====
section
/-! DEFINITION. The meanings of the four framer commands INIT, ABSORB, FINISH and HASH_MEM (R84 to R87), each as one
atomic transaction (R7). -/

namespace Sys2Proof.Machine

/-- INIT (R84): not gated, clears the error bits (R99), answers STATUS. -/
def execInit (s : State) : Result := .next s.startMessage.respondStatus

/-- ABSORB BYTE (R85). -/
def execAbsorb (byte : Byte) (s : State) : Result :=
  .next (s.guarded s.absorbCheck (s.absorbByte byte).respondStatus)

/-- FINISH (R86). -/
def execFinish (s : State) : Result :=
  .next (s.guarded s.finishCheck s.finishMessage.respondStatus)

/-- HASH_MEM N (R87): not gated; an N above MSG_SIZE raises ERR_RANGE and reads nothing. -/
def execHashMem (n : Nat) (s : State) : Result :=
  .next (s.guarded (s.hashCheck n) (s.hashMessage n).respondStatus)

end Sys2Proof.Machine
end

