-- ==== Sys2Proof/Machine/Readout.lean ====
section
/-! DEFINITION. The meanings of the read-out commands RD_DIGEST, RD_STATUS and RD_LEN (R91 to R93). None is gated by
the error bits and none changes the state beyond giving its response (R43). -/

namespace Sys2Proof.Machine

/-- RD_DIGEST I: respond zext_64(H[I]) (R91). -/
def execRdDigest (i : Fin 8) (s : State) : Result :=
  .next (s.respond ((s.h.get i).setWidth 64))

/-- RD_STATUS: respond STATUS (R92). -/
def execRdStatus (s : State) : Result := .next s.respondStatus

/-- RD_LEN: respond LEN (R93). -/
def execRdLen (s : State) : Result := .next (s.respond s.len)

end Sys2Proof.Machine
end

