-- ==== Sys2Proof/Machine/Dispatch.lean ====
section
/-! DEFINITION. One arm per command: each calls the command's meaning. -/

namespace Sys2Proof.Machine

def exec (i : Instr) (s : State) : Host.Outcome State Fault Refusal :=
  match i with
  | .init => Sys2Proof.Machine.execInit s
  | .absorb byte => Sys2Proof.Machine.execAbsorb byte s
  | .finish => Sys2Proof.Machine.execFinish s
  | .hashMem n => Sys2Proof.Machine.execHashMem n s
  | .rdDigest i' => Sys2Proof.Machine.execRdDigest i' s
  | .rdStatus => Sys2Proof.Machine.execRdStatus s
  | .rdLen => Sys2Proof.Machine.execRdLen s

end Sys2Proof.Machine
end

