-- ==== Sys2Proof/Machine/Engine.lean ====
section
/-! DEFINITION. The reference sequencing of the compression engine: the phases LOAD, ROUND and ADD of R78, one phase
step at a time, over the hidden state of R26 to R28. -/

namespace Sys2Proof.Machine

/-- The framer hands the engine a full BUF (R78, IDLE). -/
def State.startEngine (s : State) : State :=
  { s with engine := { s.engine with phase := .load } }

/-- LOAD: (a..h) <- H, W[0..15] <- the words of BUF, t <- 0 (R78). -/
def engineLoad (h : Words8) (buf : Buffer) (e : Engine) : Engine :=
  { e with vars := h, w := loadSchedule (bufferWords buf) e.w, t := 0, phase := .round }

/-- W with the word of round `t` formed: computed when t ≥ 16, and a block word before (R73, R78). -/
def formWord (w : Schedule) (t : Nat) : Schedule :=
  if t < 16 then w else w.setIfInBounds t (scheduleWord w t)

/-- One ROUND step: form W[t], apply round t, t <- t + 1; after round 63 the phase is ADD (R75, R78). -/
def engineRound (e : Engine) : Engine :=
  let t := e.t.toNat
  let w := formWord e.w t
  let t1 := roundT1 t e.vars (w.getD t 0)
  let t2 := roundT2 e.vars
  { vars := rotateVars e.vars t1 t2, t1 := t1, t2 := t2, w := w, t := e.t + 1,
    phase := if t < 63 then .round else .add }

/-- ADD: H[i] <- H[i] + (a..h)[i] for all i at once; the phase is IDLE and the working state unspecified (R78). -/
def State.engineAdd (s : State) : State :=
  { s with h := addWords s.h s.engine.vars }.releaseEngine

/-- One phase step of the engine (R78); IDLE has none. -/
def State.engineStep (s : State) : State :=
  match s.engine.phase with
  | .idle => s
  | .load => { s with engine := engineLoad s.h s.buf s.engine }
  | .round => { s with engine := engineRound s.engine }
  | .add => s.engineAdd

end Sys2Proof.Machine
end

