-- ==== Sys2Proof/Machine/Sequencer.lean ====
section
/-! DEFINITION. A command in progress: what the framer does between its acceptance and its response, one phase step
at a time (R29, R46, R78, R116). A command that needs no compression and no message memory is done in one step, by its
own meaning. -/

namespace Sys2Proof.Machine

/-- An accepted word is done whole (R7, R57): a legal one by its meaning, an illegal one raises ERR_CMD (R58, R59). -/
def execWord (word : Word64) (s : State) : Result :=
  match decode word with
  | .ok i => exec i s
  | .error _ => .next (s.raise .cmd)

/-- ABSORB of the byte that completes a block: the byte is stored and the engine started (R82). -/
def State.beginAbsorbBlock (s : State) (byte : Byte) : State :=
  { s.storeByte byte with pos := .absorbBlock }.startEngine

/-- The boundary decision (R83): the terminator is placed, and the block goes to the engine with the length field
where it fits, without it where it does not. `bulk` is N for HASH_MEM. -/
def State.beginFinal (s : State) (bulk : Option Nat) : State :=
  let tail := terminate s.buf s.idx.val
  if s.idx.val < 56 then
    { s with flag := .padFits, buf := putLength tail s.bitLength, pos := .finalLast bulk }.startEngine
  else
    { s with flag := .padSpills, buf := tail, pos := .finalFirst bulk }.startEngine

/-- The first step of an accepted word: the checks of R100, then the first framer action. -/
def State.beginCommand (s : State) (word : Word64) : Result :=
  match decode word with
  | .ok (.absorb byte) =>
    if s.absorbCheck = .perform ∧ s.idx.val + 1 = 64 then .next (s.beginAbsorbBlock byte)
    else execWord word s
  | .ok .finish =>
    if s.finishCheck = .perform then .next (s.beginFinal none) else execWord word s
  | .ok (.hashMem n) =>
    if s.hashCheck n = .perform then .next { s.startMessage with pos := .readMsg n 0 }
    else execWord word s
  | _ => execWord word s

/-- The end of a HASH_MEM uses up its draw for unwritten bytes (log entry 3). -/
def State.closeBulk (s : State) (bulk : Option Nat) : State :=
  if bulk.isSome then { s with msgEpoch := s.msgEpoch + 1 } else s

/-- The framer's next action while the engine is IDLE (R82, R83, R87). HASH_MEM waiting for a byte of MSG has none. -/
def State.framerStep (s : State) : Result :=
  match s.pos with
  | .idle => .next s
  | .accepted word => s.beginCommand word
  | .absorbBlock => .next { s with buf := zeroBuffer, idx := 0 }.respondStatus
  | .readMsg n addr => .next (if addr < n then s else s.beginFinal (some n))
  | .bulkBlock n addr => .next { s with buf := zeroBuffer, idx := 0, pos := .readMsg n addr }
  | .finalFirst bulk =>
    .next { s with buf := putLength zeroBuffer s.bitLength, pos := .finalLast bulk }.startEngine
  | .finalLast bulk =>
    .next ({ s with buf := zeroBuffer, idx := 0 }.closeBulk bulk).respondStatus

/-- One phase step of the block: the engine's while it runs, and else the framer's; nothing without a command. -/
def State.workStep (s : State) : Result :=
  if s.busy then
    if s.engine.phase = .idle then s.framerStep else .next s.engineStep
  else .next s

/-- The address of MSG that the block requests, none while msg_req = 0 (R34, R44, R50). -/
def State.msgRequest (s : State) : Option Nat :=
  match s.pos with
  | .readMsg n addr => if s.busy ∧ s.engine.phase = .idle ∧ addr < n then some addr else none
  | _ => none

/-- HASH_MEM N takes the message byte of address `addr`: absorb_byte, whose compression is the engine's (R82, R87). -/
def State.takeMsgByte (s : State) (n addr : Nat) (byte : Byte) : State :=
  if s.idx.val + 1 = 64 then { s.storeByte byte with pos := .bulkBlock n (addr + 1) }.startEngine
  else { s.storeByte byte with pos := .readMsg n (addr + 1) }

/-- The memory answers the request with the byte it holds there (R43, R50).
DESIGN CHOICE, unsafe for a memory that drives it so (log entry 18): msg_ack = 1 without a request, on which the spec is
silent, is ignored. -/
def State.memReply (s : State) : Result :=
  match s.msgRequest, s.pos with
  | some addr, .readMsg n _ =>
    if addr < s.msgSize then .next (s.takeMsgByte n addr (s.memRead addr)) else .fault .msgAddressOutside
  | _, _ => .next s

/-- The N of a command word that is a HASH_MEM N (R56). -/
def hashLength (word : Word64) : Option Nat :=
  match decode word with
  | .ok (.hashMem n) => some n
  | _ => none

/-- The N of the HASH_MEM in progress, from its acceptance until its response is offered (R115). -/
def State.hashInProgress (s : State) : Option Nat :=
  if s.busy then
    match s.pos with
    | .accepted word => hashLength word
    | .readMsg n _ => some n
    | .bulkBlock n _ => some n
    | .finalFirst bulk => bulk
    | .finalLast bulk => bulk
    | _ => none
  else none

end Sys2Proof.Machine
end

