-- ==== Sys2Proof/Machine/Ports.lean ====
section
/-! DEFINITION. The ports and their handshakes (R50 to R52, R109, R111), the host's moves (R120), and one event of
the machine. -/

namespace Sys2Proof.Machine

/-- No command is in the block and no response waits: cmd_ready = 1 outside reset (R51). -/
def State.ready (s : State) : Bool := !s.busy && !s.rspPending

/-- What the block drives while the input rst has the value `rst` (R50 to R52, R109).
DESIGN CHOICE, safe for a host that samples rsp_data and msg_addr only while they are valid (log entry 15): the spec
is silent on rsp_data while rsp_valid = 0 and on msg_addr while msg_req = 0, also under rst = 1 with a request
waiting; the model shows RSP_DATA and 0. -/
def State.portOut (s : State) (rst : Bool) : PortOut where
  cmdReady := !rst && s.ready
  rspValid := !rst && s.rspPending
  rspData := s.rspData
  msgReq := !rst && s.msgRequest.isSome
  msgAddr := if rst then 0 else s.msgRequest.getD 0

/-- Reset (R109 to R111): the reset state, from any state, whatever command is in progress. MSG is not reset (R31);
the width MA_W is fixed (R112); the events to come, the word the host holds, the responses already taken and the draw
numbers are not the block's. -/
def State.resetBlock (s : State) : State :=
  { State.resetWith s.maW with
    msg := s.msg
    events := s.events
    offered := s.offered
    responses := s.responses
    draw := s.draw
    msgEpoch := s.msgEpoch }

/-- The word is accepted: BUSY <- 1 (R51). RSP_DATA stays (log entry 17). -/
def State.accept (s : State) (word : Word64) : State :=
  { s with busy := true, pos := .accepted word }

/-- The response is taken: RSP_PENDING <- 0 (R52), and the host has the word.
DESIGN CHOICE, unsafe for a claim that reads it (log entry 17): RSP_DATA, any value from then on until the next response
by U1 of 93_implementation_defined.md, stays the response taken. -/
def State.takeResponse (s : State) : State :=
  { s with rspPending := false, responses := s.responses ++ [s.rspData] }

/-- What a rising edge of clk shows of the word that the host presents: with cmd_valid = 1 and cmd_ready = 0 the word
on cmd_data waits (R113); a word that is accepted at the edge waits no longer, and with cmd_valid = 0 none is presented
(R113: a word withdrawn was never given). -/
def State.present (s : State) (p : PortIn) : State :=
  { s with offered := if p.cmdValid && !(s.portOut p.rst).cmdReady then some p.cmdData else none }

/-- What the block does at a rising edge of clk (R50 to R52, R109): reset wins; a pending response is taken when
rsp_ready = 1; a request to MSG is answered when msg_ack = 1; a presented word is accepted when the block is ready. An
input that answers nothing, msg_ack = 1 with msg_req = 0 or rsp_ready = 1 with rsp_valid = 0, is ignored (log
entry 18). -/
def State.blockEdge (s : State) (p : PortIn) : Result :=
  if p.rst then .next s.resetBlock
  else if s.rspPending then .next (if p.rspReady then s.takeResponse else s)
  else if s.busy then (if p.msgAck then s.memReply else .next s)
  else .next (if p.cmdValid then s.accept p.cmdData else s)

/-- A rising edge of clk, for the host and the block. -/
def State.clockEdge (s : State) (p : PortIn) : Result := (s.present p).blockEdge p

/-- The N of the HASH_MEM that the host presents and that is not accepted yet (R47, R112). -/
def State.hashOffered (s : State) : Option Nat := s.offered.bind hashLength

/-- `addr` is one of the addresses 0 to N − 1 of the message of a HASH_MEM N. -/
def inMessage (hash : Option Nat) (addr : Nat) : Bool := hash.any fun n => decide (addr < n)

/-- The host writes a byte of MSG by its own path (R33): to an address of MSG only, and to none of MSG[0..N−1] from
the presenting of HASH_MEM N, before which the host completes its writes there (R47, R112, D12 of
92_eei_decisions.md), over its acceptance, to the offer of its response (R115). -/
def State.hostWrite (s : State) (addr : Nat) (byte : Byte) : Result :=
  if s.msgSize ≤ addr then .fault .msgAddressOutside
  else if inMessage s.hashInProgress addr then .refused .msgWriteDuringHash
  else if inMessage s.hashOffered addr then .refused .msgWriteAfterOffer
  else .next { s with msg := Memory.write s.msg addr byte }

/-- One step towards `ready` for a host that waits (R45, R108): a pending response is taken, a request to MSG
answered, and else the block does its next phase step. -/
def State.settle (s : State) : Result :=
  if s.rspPending then .next s.takeResponse
  else if s.msgRequest.isSome then s.memReply
  else s.workStep

/-- `k` steps of `settle`. -/
def State.settleFor : Nat → State → Result
  | 0, s => .next s
  | k + 1, s =>
    match s.settle with
    | .next s' => State.settleFor k s'
    | .fault r => .fault r
    | .refused r => .refused r

/-- The response, offered by a command that is done, is taken by the host. -/
def taken : Result → Result
  | .next s => .next s.takeResponse
  | .fault r => .fault r
  | .refused r => .refused r

/-- The word of a transaction is accepted: its event is over, and no word waits for acceptance. -/
def State.acceptTransact (s : State) (rest : List Event) : State :=
  { s with events := rest, offered := none }

/-- One event, `rest` being the events after it. A transaction offered to a block that is not ready waits: the host
holds its word (R113, R114) while the block settles, and makes no other move. -/
def State.applyEvent (s : State) (e : Event) (rest : List Event) : Result :=
  match e with
  | .transact word => if s.ready then taken (execWord word (s.acceptTransact rest)) else s.settle
  | .edge pins => { s with events := rest }.clockEdge pins
  | .work => { s with events := rest }.workStep
  | .writeMsg addr byte => { s with events := rest }.hostWrite addr byte

end Sys2Proof.Machine
end

