-- ==== Sys2Proof/Machine/Step.lean ====
section
/-! DEFINITION. One step of the machine: its next event; with none left, the block goes on with the command in
progress, and idles without one (R107, R108). -/

namespace Sys2Proof.Machine

/-- One step. -/
def step (s : State) : Host.Outcome State Fault Refusal :=
  match s.events with
  | [] => s.workStep
  | e :: rest => s.applyEvent e rest

/-- `s` with the word offered as the next transaction (R7, R18: the host's sequence of command words is the
program), and the block ready for it: no command in progress and no response pending (R51). -/
def State.withFetchWord (s : State) (nbits w : Nat) : State :=
  { s with
    events := .transact (tableWord nbits w) :: s.events
    busy := false
    rspPending := false
    pos := .idle }

end Sys2Proof.Machine
end

