-- ==== Sys2Proof/Machine/Assembler.lean ====
section
/-! DEFINITION. The assembler syntax and the pseudo-commands (R61, R62). They are a way to write command words down,
not part of the hardware (D22 of 92_eei_decisions.md). -/

namespace Sys2Proof.Machine

/-- One line of assembly (R61) or a pseudo-command (R62), its operands as the source gives them. -/
inductive AsmLine where
  | init
  | absorb (byte : Nat)
  | finish
  | hashMem (n : Nat)
  | rdDigest (i : Nat)
  | rdStatus
  | rdLen
  /-- `.word`: the 64-bit command word verbatim, legal or not. -/
  | word (w : Nat)
  /-- `ABSORB_BYTES`: of a list of bytes, or of the bytes of a string. -/
  | absorbBytes (bytes : List Nat)
  | rdDigestAll
  /-- `HASH_BYTES`: of the bytes of a string. -/
  | hashBytes (bytes : List Nat)
  deriving DecidableEq, Repr

/-- Every operand lies in its range; one outside it is an assembler error, not an encoding (R61). -/
def AsmLine.wellFormed : AsmLine → Bool
  | .init => true
  | .absorb byte => decide (byte < 256)
  | .finish => true
  | .hashMem n => decide (n < 2 ^ 56)
  | .rdDigest i => decide (i < 8)
  | .rdStatus => true
  | .rdLen => true
  | .word w => decide (w < 2 ^ 64)
  | .absorbBytes bytes => bytes.all fun byte => decide (byte < 256)
  | .rdDigestAll => true
  | .hashBytes bytes => bytes.all fun byte => decide (byte < 256)

/-- The command words of a line whose operands are in range: a pseudo-command's are those of its expansion (R62). -/
def AsmLine.words : AsmLine → List Word64
  | .init => [encode .init]
  | .absorb byte => [encode (.absorb (BitVec.ofNat 8 byte))]
  | .finish => [encode .finish]
  | .hashMem n => [encode (.hashMem n)]
  | .rdDigest i => [encode (.rdDigest (Fin.ofNat 8 i))]
  | .rdStatus => [encode .rdStatus]
  | .rdLen => [encode .rdLen]
  | .word w => [BitVec.ofNat 64 w]
  | .absorbBytes bytes => bytes.map fun byte => encode (.absorb (BitVec.ofNat 8 byte))
  | .rdDigestAll => (List.finRange 8).map fun i => encode (.rdDigest i)
  | .hashBytes bytes =>
    [encode .init] ++ bytes.map (fun byte => encode (.absorb (BitVec.ofNat 8 byte))) ++ [encode .finish]

/-- The command words of a line, none where it is an assembler error (R61). -/
def assemble (line : AsmLine) : Option (List Word64) :=
  if line.wellFormed then some line.words else none

/-- A lexical element of a line. -/
inductive Token where
  /-- A mnemonic, a directive or a number, as written. -/
  | word (chars : List Char)
  /-- The code of a character literal. -/
  | char (code : Nat)
  /-- The character codes of a string. -/
  | text (codes : List Nat)
  | comma
  deriving DecidableEq, Repr

/-- What the scanner is inside of, with the characters of it read so far, the last one first. -/
inductive LexMode where
  | between
  | word (back : List Char)
  | text (back : List Nat)
  deriving DecidableEq, Repr

/-- The character `;`, which starts a comment (R61). -/
def semicolon : Char := Char.ofNat 59

/-- The double quote. -/
def doubleQuote : Char := Char.ofNat 34

/-- The single quote. -/
def singleQuote : Char := Char.ofNat 39

/-- The comma. -/
def commaChar : Char := Char.ofNat 44

/-- A space or a tab. -/
def isBlank (c : Char) : Bool := c = Char.ofNat 32 || c = Char.ofNat 9

/-- The tokens of a line; a comment ends it (R61). None for a literal that does not close or is not ASCII. -/
def tokens : LexMode → List Char → Option (List Token)
  | .between, [] => some []
  | .between, c :: cs =>
    if c = semicolon then some []
    else if isBlank c then tokens .between cs
    else if c = commaChar then (tokens .between cs).map (Token.comma :: ·)
    else if c = doubleQuote then tokens (.text []) cs
    else if c = singleQuote then
      match cs with
      | x :: y :: rest =>
        if y = singleQuote ∧ x.toNat < 128 then (tokens .between rest).map (Token.char x.toNat :: ·) else none
      | _ => none
    else tokens (.word [c]) cs
  | .word back, [] => some [.word back.reverse]
  | .word back, c :: cs =>
    if c = semicolon then some [.word back.reverse]
    else if isBlank c then (tokens .between cs).map (Token.word back.reverse :: ·)
    else if c = commaChar then
      (tokens .between cs).map fun ts => Token.word back.reverse :: Token.comma :: ts
    else tokens (.word (c :: back)) cs
  | .text _, [] => none
  | .text back, c :: cs =>
    if c = doubleQuote then (tokens .between cs).map (Token.text back.reverse :: ·)
    else if c.toNat < 128 then tokens (.text (c.toNat :: back)) cs
    else none

/-- The value of a digit in the base `base`. -/
def digit (base : Nat) (c : Char) : Option Nat :=
  let n := c.toUpper.toNat
  let v := if 48 ≤ n ∧ n ≤ 57 then n - 48 else if 65 ≤ n ∧ n ≤ 70 then n - 55 else base
  if v < base then some v else none

/-- The number that digits in the base `base` write, `acc` being the number before them. -/
def digits (base : Nat) : List Char → Nat → Option Nat
  | [], acc => some acc
  | c :: cs, acc =>
    match digit base c with
    | some d => digits base cs (base * acc + d)
    | none => none

/-- A number as decimal or 0x-hex (R61). -/
def number (chars : List Char) : Option Nat :=
  match chars with
  | [] => none
  | ['0', 'x'] => none
  | '0' :: 'x' :: c :: cs => digits 16 (c :: cs) 0
  | c :: cs => digits 10 (c :: cs) 0

/-- An operand: a number or a character literal (R61).
DESIGN CHOICE (log entry 12): R61 gives the character literal as a form of the byte of ABSORB only, and is silent on
the forms of the operands of HASH_MEM, RD_DIGEST and `.word`; here every operand may be either. -/
def operandValue : Token → Option Nat
  | .word chars => number chars
  | .char code => some code
  | .text _ => none
  | .comma => none

/-- The operands of ABSORB_BYTES, separated by commas (R62). -/
def operandList : List Token → Option (List Nat)
  | [] => none
  | [t] => (operandValue t).map ([·])
  | t :: .comma :: rest =>
    match operandValue t, operandList rest with
    | some n, some ns => some (n :: ns)
    | _, _ => none
  | _ => none

/-- The line with this mnemonic in capitals and these operands (R61, R62). -/
def parseCommand (mnemonic : List Char) (operands : List Token) : Option AsmLine :=
  if mnemonic = ['I', 'N', 'I', 'T'] then
    if operands = [] then some .init else none
  else if mnemonic = ['A', 'B', 'S', 'O', 'R', 'B'] then
    match operands with
    | [t] => (operandValue t).map .absorb
    | _ => none
  else if mnemonic = ['F', 'I', 'N', 'I', 'S', 'H'] then
    if operands = [] then some .finish else none
  else if mnemonic = ['H', 'A', 'S', 'H', '_', 'M', 'E', 'M'] then
    match operands with
    | [t] => (operandValue t).map .hashMem
    | _ => none
  else if mnemonic = ['R', 'D', '_', 'D', 'I', 'G', 'E', 'S', 'T'] then
    match operands with
    | [t] => (operandValue t).map .rdDigest
    | _ => none
  else if mnemonic = ['R', 'D', '_', 'S', 'T', 'A', 'T', 'U', 'S'] then
    if operands = [] then some .rdStatus else none
  else if mnemonic = ['R', 'D', '_', 'L', 'E', 'N'] then
    if operands = [] then some .rdLen else none
  else if mnemonic = ['.', 'W', 'O', 'R', 'D'] then
    match operands with
    | [t] => (operandValue t).map .word
    | _ => none
  else if mnemonic = ['A', 'B', 'S', 'O', 'R', 'B', '_', 'B', 'Y', 'T', 'E', 'S'] then
    match operands with
    | [.text codes] => some (.absorbBytes codes)
    | ts => (operandList ts).map .absorbBytes
  else if mnemonic = ['R', 'D', '_', 'D', 'I', 'G', 'E', 'S', 'T', '_', 'A', 'L', 'L'] then
    if operands = [] then some .rdDigestAll else none
  else if mnemonic = ['H', 'A', 'S', 'H', '_', 'B', 'Y', 'T', 'E', 'S'] then
    match operands with
    | [.text codes] => some (.hashBytes codes)
    | _ => none
  else none

/-- The command words that a line of text stands for: none of them for an empty line or a comment; mnemonics are
case-insensitive (R61). `none` is an assembler error. -/
def assembleText (line : List Char) : Option (List Word64) :=
  match tokens .between line with
  | some [] => some []
  | some (.word mnemonic :: operands) =>
    match parseCommand (mnemonic.map Char.toUpper) operands with
    | some l => assemble l
    | none => none
  | _ => none

end Sys2Proof.Machine
end

