-- ==== Sys2Proof/Machine/Run.lean ====
section
/-! DEFINITION. A run and its observation (R119). -/

namespace Sys2Proof.Machine

/-- The host offers the command words after the events that are already to come (R119). -/
def State.offer (s : State) (words : List Word64) : State :=
  { s with events := s.events ++ words.map Event.transact }

/-- `k` steps of the machine, stopping at the first fault or refusal. -/
def runSteps : Nat → State → Result
  | 0, s => .next s
  | k + 1, s =>
    match step s with
    | .next s' => runSteps k s'
    | .fault r => .fault r
    | .refused r => .refused r

/-- The commands done one after another, each as one atomic transaction (R45). -/
def execAll : List Instr → State → Result
  | [], s => .next s
  | i :: is, s =>
    match exec i s with
    | .next s' => execAll is s'
    | .fault r => .fault r
    | .refused r => .refused r

/-- The observation of a run (R119): the response words and the visible state at its end. -/
structure Observation where
  responses : List Word64
  h : Words8
  len : Word64
  idx : Fin 64
  flag : CompletionFlag
  err : ErrorBits
  deriving DecidableEq, Repr

/-- What a run of `n` words that ends in `s` shows (R119): the run ends when the response to its last word has been
taken, so its responses are the `n` last ones taken, whatever was taken before it. -/
def State.observe (s : State) (n : Nat) : Observation where
  responses := s.responses.drop (s.responses.length - n)
  h := s.h
  len := s.len
  idx := s.idx
  flag := s.flag
  err := s.err

end Sys2Proof.Machine
end

