-- ==== Sys2Proof/Safety.lean ====
section
/-! DEFINITION. The invariant of the machine (R30, with the handshake and the command in progress), and what it
means that a message is open with the bytes m absorbed. -/

namespace Sys2Proof.Machine

/-- BUF[j] = 0x00 for every j ≥ i (R30 (5)). -/
abbrev ZeroFrom (buf : Buffer) (i : Nat) : Prop := ∀ j : Fin 64, i ≤ j.val → buf[j.val] = 0

/-- The memory is in canonical form and lists only addresses of MSG (R33). -/
abbrev State.MemoryOk (s : State) : Prop :=
  Memory.wf s.msg = true ∧ Memory.within s.msg s.msgSize = true

/-- What holds between any two commands, but for LEN ≤ LEN_MAX: R30 (3) and (4) as far as they are about IDX, R30 (5),
and the engine is IDLE (R28). R30 (1) and (6) hold by the types of IDX and FLAG. -/
abbrev State.Between (s : State) : Prop :=
  s.engine.phase = .idle ∧
  (s.flag = .streaming → s.idx.val = s.len.toNat % 64) ∧
  (s.flag ≠ .streaming → s.idx.val = 0) ∧
  ZeroFrom s.buf s.idx.val

/-- The round counter of a running engine: t < 64 in ROUND and t = 64 in ADD (R28, R78). -/
abbrev Engine.CounterOk (e : Engine) : Prop :=
  (e.phase = .round → e.t.toNat < 64) ∧ (e.phase = .add → e.t.toNat = 64)

/-- HASH_MEM N is in progress with its first `addr` bytes absorbed (R82, R87). -/
abbrev State.BulkOk (s : State) (n addr : Nat) : Prop :=
  addr ≤ n ∧ n ≤ s.msgSize ∧ s.len.toNat = addr ∧ s.flag = .streaming ∧ s.err = noErrors

/-- What holds at each sequencer position while a command is in progress (R29). -/
abbrev State.InProgress (s : State) : Prop :=
  match s.pos with
  | .idle => False
  | .accepted _ => s.Between
  | .absorbBlock => s.flag = .streaming ∧ s.idx.val = 0 ∧ s.len.toNat % 64 = 0 ∧ s.err = noErrors
  | .readMsg n addr => s.BulkOk n addr ∧ s.Between
  | .bulkBlock n addr => s.BulkOk n addr ∧ s.idx.val = 0 ∧ addr % 64 = 0
  | .finalFirst bulk => s.flag = .padSpills ∧ s.err = noErrors ∧ (bulk.isSome → s.len.toNat ≤ s.msgSize)
  | .finalLast bulk => s.flag ≠ .streaming ∧ s.err = noErrors ∧ (bulk.isSome → s.len.toNat ≤ s.msgSize)

/-- An invariant of every state that a run from reset reaches: LEN ≤ LEN_MAX (R30 (2)), MSG in canonical form, no
response pending while a command is in progress (R51, R52), the round counter in its range (R28), and between commands
what `State.Between` says of IDX, BUF and the engine. It says nothing of H: `State.Framed` does. What it says of a
command in progress is about the model's own positions (log entries 7 and 11). -/
abbrev State.Inv (s : State) : Prop :=
  s.len.toNat ≤ 2 ^ 61 - 1 ∧
  s.MemoryOk ∧
  ¬(s.busy = true ∧ s.rspPending = true) ∧
  s.engine.CounterOk ∧
  (if s.busy then s.InProgress else s.pos = .idle ∧ s.Between)

/-- The steps of `settle` from the acceptance of a word to the offer of its response in the reference sequencing: 66
phase steps for each compression (R78, R118), one for each byte read from MSG, and one for each action of the framer
between them. No rule of the spec depends on this number (R118); that there is one is R108. -/
def State.commandSteps (s : State) (word : Word64) : Nat :=
  match decode word with
  | .ok (.absorb _) => if s.absorbCheck = .perform ∧ s.idx.val + 1 = 64 then 68 else 1
  | .ok .finish => if s.finishCheck = .perform then (if s.idx.val < 56 then 68 else 135) else 1
  | .ok (.hashMem n) =>
    if s.hashCheck n = .perform then 1 + n + 67 * (n / 64) + (if n % 64 < 56 then 68 else 135) else 1
  | _ => 1

/-- BUF while the message m is open: the bytes of m after its last full block, then zeros (R19, R82). -/
def openBuffer (m : List Byte) : Buffer := Vector.ofFn fun j => m.getD (64 * (m.length / 64) + j.val) 0

/-- The message m is open: its bytes have been absorbed since the last INIT, HASH_MEM or reset, and no error was
raised since (R16, R20, R21, R30, R82). -/
abbrev State.Absorbed (s : State) (m : List Byte) : Prop :=
  m.length ≤ 2 ^ 61 - 1 ∧
  s.flag = .streaming ∧
  s.err = noErrors ∧
  s.len.toNat = m.length ∧
  s.idx.val = m.length % 64 ∧
  s.buf = openBuffer m ∧
  s.h = chainingValue m

/-- R30 between two commands, with what it says of H: for some message m of LEN bytes, an open message has the full
blocks of m, LEN div 64 of them, compressed into H from IV and the rest of m in BUF, and a closed message has the
digest of m in H. An error bit may be set. R30 (1) and (6) hold by the types of IDX and FLAG. -/
abbrev State.Framed (s : State) : Prop :=
  ∃ m : List Byte,
    m.length ≤ 2 ^ 61 - 1 ∧
    s.len.toNat = m.length ∧
    (s.flag = .streaming → s.idx.val = m.length % 64 ∧ s.buf = openBuffer m ∧ s.h = chainingValue m) ∧
    (s.flag ≠ .streaming → s.idx.val = 0 ∧ s.h = sha256 m) ∧
    ZeroFrom s.buf s.idx.val

end Sys2Proof.Machine
end

