-- ==== Sys2Proof/Certificates/Slice0/Obligations.lean ====
section
/-! DEFINITION. The statements for the provers. A meaning's statement gives its whole next state as an update of the
state before, so that every field it does not name is unchanged (the frame), and says that the command completes. The
hidden engine state and the draw numbers are left open where a command compresses (R26 to R28). The position idle that a
statement of basis 'derived' gives after a command, and the RSP_DATA kept after a response was taken, are the model's
choice, as the spec leaves both open between two commands (log entry 17). -/

open Sys2Proof Sys2Proof.Machine

/-! ### Encoding -/

/-- Every well-formed command is read back from its own word (R53 to R56). -/
def Obligations.DecodeOfEncodeIsTheCommand : Prop :=
  ∀ i : Instr, i.wellFormed = true → decode (encode i) = .ok i

/-- A word that decodes is the word of the command it decodes to, and that command is well formed: no bit of a
legal word is ignored (R54, R55, R59). -/
def Obligations.DecodedWordIsTheCommandsWord : Prop :=
  ∀ (w : Word64) (i : Instr), decode w = .ok i → encode i = w ∧ i.wellFormed = true

/-- A word is legal exactly when it matches a row of the match and mask table, and no word matches two rows (R56). -/
def Obligations.LegalWordsAreTheTableRows : Prop :=
  (∀ w : Word64, (∃ i, decode w = .ok i) ↔ ∃ r ∈ opcodeRows, rowMatches r w = true) ∧
  (∀ (w : Word64) (j k : Fin opcodeRows.length), rowMatches opcodeRows[j] w = true →
    rowMatches opcodeRows[k] w = true → j = k)

/-- A word with a reserved opcode, 0x00 or 0x08 to 0xFF, sets ERR_CMD, changes nothing else and is answered with
STATUS (R58). The sequencer position is left open. -/
def Obligations.ReservedOpcodeRaisesErrCmd : Prop :=
  ∀ (w : Word64) (s : State), (opcodeField w = 0 ∨ 8 ≤ (opcodeField w).toNat) →
    ∃ t, execWord w s = .next t ∧
      t = { s with err := { s.err with cmd := true }, rspData := t.status, rspPending := true, busy := false,
                   pos := t.pos }

/-- A word with a defined opcode and a 1 in a "must be 0" bit does the same (R59, with the formats of R54). -/
def Obligations.OperandBitSetRaisesErrCmd : Prop :=
  ∀ (w : Word64) (s : State),
    ((opcodeField w = 1 ∨ opcodeField w = 3 ∨ opcodeField w = 6 ∨ opcodeField w = 7) ∧ (operandField w).toNat ≠ 0 ∨
      opcodeField w = 2 ∧ 2 ^ 8 ≤ (operandField w).toNat ∨
      opcodeField w = 5 ∧ 2 ^ 3 ≤ (operandField w).toNat) →
    ∃ t, execWord w s = .next t ∧
      t = { s with err := { s.err with cmd := true }, rspData := t.status, rspPending := true, busy := false,
                   pos := t.pos }

/-- Words written out from R53 to R56, one of each row and the worked encodings of R62. -/
def Obligations.WordsOfTheSpecDecode : Prop :=
  [0x0100000000000000, 0x0200000000000061, 0x0300000000000000, 0x0400000000000003, 0x0500000000000007,
      0x0600000000000000, 0x0700000000000000].map decode =
    ([.init, .absorb 0x61, .finish, .hashMem 3, .rdDigest 7, .rdStatus, .rdLen] : List Instr).map .ok

/-- Every line of assembly whose operands are in range, other than `.word`, gives only words that decode to a
command: an illegal word can be written only with `.word` (R61, R62). -/
def Obligations.AssembledLinesAreLegal : Prop :=
  ∀ (line : AsmLine) (ws : List Word64), assemble line = some ws → (∀ n, line ≠ .word n) →
    ∀ w ∈ ws, ∃ i, decode w = .ok i

/-! ### The compression function and the schedule -/

/-- rotr rotates: bit i of rotr(x, n) is bit (i + n) mod 32 of x, for 0 < n < 32 (R63). -/
def Obligations.RotrMovesEveryBit : Prop :=
  ∀ (x : Word) (n i : Nat), 0 < n → n < 32 → i < 32 →
    (rotr x n).getLsbD i = x.getLsbD ((i + n) % 32)

/-- For each bit, ch chooses y where x is 1 and z where it is 0 (R66), and maj is the majority of the three (R67). -/
def Obligations.ChChoosesAndMajIsTheMajority : Prop :=
  ∀ (x y z : Word) (i : Nat),
    (ch x y z).getLsbD i = (if x.getLsbD i then y.getLsbD i else z.getLsbD i) ∧
    (maj x y z).getLsbD i =
      decide (2 ≤ (x.getLsbD i).toNat + (y.getLsbD i).toNat + (z.getLsbD i).toNat)

/-- The schedule: words 0 to 15 are the block's, and every later word is
ssig1(W[i−2]) + W[i−7] + ssig0(W[i−15]) + W[i−16] (R73). -/
def Obligations.ExpandFollowsTheRecurrence : Prop :=
  ∀ m : Block,
    (∀ (i : Nat) (h : i < 16), (expand m)[i] = m[i]) ∧
    (∀ (i : Nat) (_ : 16 ≤ i) (h : i < 64),
      (expand m)[i] = ssig1 (expand m)[i - 2] + (expand m)[i - 7] + ssig0 (expand m)[i - 15] + (expand m)[i - 16])

/-- A schedule held as a 16-word window yields the same word in every round (R74). -/
def Obligations.WindowYieldsTheSchedule : Prop :=
  ∀ (m : Block) (t : Nat) (h : t < 64), windowWord m t = (expand m)[t]

/-- The engine's 66 phase steps LOAD, ROUND × 64, ADD from a full BUF compute H <- compress(H, words(BUF)) and change
nothing else that is not hidden engine state (R76, R78). -/
def Obligations.EnginePhasesComputeCompress : Prop :=
  ∀ s : State, s.engine.phase = .load →
    ∃ t, State.engineStep^[66] s = t ∧ t.engine.phase = .idle ∧
      t = { s with h := compress s.h (bufferWords s.buf), engine := t.engine, draw := t.draw }

/-- Digest byte k is byte k mod 4, the most significant first, of H[k div 4]: four digest bytes are big-endian the
word they come from (R39). -/
def Obligations.DigestBytesAreBigEndian : Prop :=
  ∀ (h : Words8) (i : Fin 8),
    be32 (digestBytes h)[4 * i.val] (digestBytes h)[4 * i.val + 1] (digestBytes h)[4 * i.val + 2]
      (digestBytes h)[4 * i.val + 3] = h.get i

/-! ### Padding -/

/-- The padded message is m, 0x80, z zeros and the bit length; its length N + 1 + z + 8 is a multiple of 64, and z is
the least number for which it is (R79). -/
def Obligations.PaddedLengthIsAMultipleOf64 : Prop :=
  ∀ m : List Byte,
    (padded m).length = m.length + 1 + padZeros m.length + 8 ∧
    (padded m).length % 64 = 0 ∧
    (∀ z, (m.length + 1 + z + 8) % 64 = 0 → padZeros m.length ≤ z) ∧
    padZeros m.length ≤ 63

/-- The padded message ends in the message length in bits, big-endian (R38, R79). -/
def Obligations.PaddedEndsInTheBitLength : Prop :=
  ∀ m : List Byte, m.length ≤ 2 ^ 61 - 1 →
    ((padded m).drop ((padded m).length - 8)).foldl (fun acc b => 256 * acc + b.toNat) 0 = 8 * m.length

/-- A message of N bytes is (N + 9 + z) / 64 = floor(N / 64) + 1 + s blocks, s = 1 if N mod 64 ≥ 56 and s = 0
otherwise (R81). -/
def Obligations.BlocksOfAMessage : Prop :=
  ∀ m : List Byte,
    (blocksOf (padded m)).length = (m.length + 9 + padZeros m.length) / 64 ∧
    (blocksOf (padded m)).length = m.length / 64 + 1 + (if 56 ≤ m.length % 64 then 1 else 0)

/-! ### Reset and the status word -/

/-- The reset state (R31): the values that the rule states, for every MA_W, and STATUS = 0. -/
def Obligations.ResetLeavesTheStatedValues : Prop :=
  ∀ m : Fin 57,
    let r := State.resetWith m
    [r.h.a, r.h.b, r.h.c, r.h.d, r.h.e, r.h.f, r.h.g, r.h.h] =
      [0x6a09e667, 0xbb67ae85, 0x3c6ef372, 0xa54ff53a, 0x510e527f, 0x9b05688c, 0x1f83d9ab, 0x5be0cd19] ∧
    (∀ (j : Nat) (h : j < 64), r.buf[j] = 0) ∧ r.idx = 0 ∧ r.len = 0 ∧ r.flag = .streaming ∧
    r.err = ⟨false, false, false, false⟩ ∧ r.status = 0 ∧ r.engine.phase = .idle ∧ r.busy = false ∧
    r.rspPending = false

/-- A rising edge with rst = 1 gives the values of R31 from any state, whatever command is in progress and whatever
response is pending: nothing is left of the command, no response is given, and MSG is as before (R31); the outputs
cmd_ready, rsp_valid and msg_req are 0 (R109 to R111). The hidden state that R31 leaves unspecified and the draw numbers
and the word the host presents are left open; that the events to come and the responses taken are kept is the model's
choice (log entry 9). -/
def Obligations.ResetEdgeAborts : Prop :=
  ∀ (s : State) (p : PortIn), p.rst = true →
    (∃ t, s.clockEdge p = .next t ∧ t.engine.phase = .idle ∧
      t = { s with h := iv, buf := Vector.replicate 64 0, idx := 0, len := 0, flag := .streaming,
                   err := ⟨false, false, false, false⟩, busy := false, rspPending := false, engine := t.engine,
                   rspData := t.rspData, pos := t.pos, draw := t.draw, msgEpoch := t.msgEpoch,
                   offered := t.offered }) ∧
    (s.portOut true).cmdReady = false ∧ (s.portOut true).rspValid = false ∧ (s.portOut true).msgReq = false

/-- The fields of STATUS (R25): DONE, FLAG, IDX, the four error bits, and zeros elsewhere. -/
def Obligations.StatusLayout : Prop :=
  ∀ s : State,
    s.status.getLsbD 0 = (s.flag != .streaming) ∧
    s.status.extractLsb' 1 2 = (match s.flag with | .streaming => 0b00 | .padFits => 0b01 | .padSpills => 0b10) ∧
    (s.status.extractLsb' 3 6).toNat = s.idx.val ∧
    s.status.extractLsb' 9 7 = 0 ∧
    s.status.getLsbD 16 = s.err.cmd ∧ s.status.getLsbD 17 = s.err.seq ∧
    s.status.getLsbD 18 = s.err.len ∧ s.status.getLsbD 19 = s.err.range ∧
    s.status.extractLsb' 20 44 = 0

/-! ### The commands -/

/-- INIT, in any state (R84): H = IV, BUF, IDX and LEN 0, STREAMING, no error bit, response 0; nothing else
changes. -/
def Obligations.InitStartsAMessage : Prop :=
  ∀ s : State,
    exec .init s = .next
      { s with h := iv, buf := Vector.replicate 64 0, idx := 0, len := 0, flag := .streaming,
               err := ⟨false, false, false, false⟩, rspData := 0, rspPending := true, busy := false, pos := .idle }

/-- The visible state, BUF and the engine phase after INIT are those after reset (R31, R84, R110). -/
def Obligations.InitLeavesTheResetState : Prop :=
  ∀ s t : State, s.engine.phase = .idle → exec .init s = .next t →
    let r := State.resetWith s.maW
    t.h = r.h ∧ t.buf = r.buf ∧ t.idx = r.idx ∧ t.len = r.len ∧ t.flag = r.flag ∧ t.err = r.err ∧
      t.status = r.status ∧ t.engine.phase = r.engine.phase ∧ t.busy = r.busy

/-- ABSORB that does not complete a block (R82, R85): BUF[IDX] is the byte, every other byte of BUF is as before,
IDX and LEN are one more, the response is STATUS with the new IDX; nothing else changes. -/
def Obligations.AbsorbStoresTheByte : Prop :=
  ∀ (s : State) (byte : Byte),
    s.err = ⟨false, false, false, false⟩ → s.flag = .streaming → s.len ≠ Config.lenMax → s.idx.val < 63 →
    ∃ t, exec (.absorb byte) s = .next t ∧
      t = { s with buf := t.buf, idx := t.idx, len := s.len + 1,
                   rspData := BitVec.ofNat 64 (8 * (s.idx.val + 1)), rspPending := true, busy := false,
                   pos := .idle } ∧
      t.idx.val = s.idx.val + 1 ∧
      (∀ (j : Nat) (h : j < 64), t.buf[j] = if j = s.idx.val then byte else s.buf[j])

/-- ABSORB of a block's 64th byte (R82, R85): the block is compressed within the command, BUF is cleared, IDX is 0,
LEN one more and the response 0; nothing else changes but hidden engine state. -/
def Obligations.AbsorbCompressesAFullBlock : Prop :=
  ∀ (s : State) (byte : Byte),
    s.err = ⟨false, false, false, false⟩ → s.flag = .streaming → s.len ≠ Config.lenMax → s.idx.val = 63 →
    ∃ t, exec (.absorb byte) s = .next t ∧ t.engine.phase = .idle ∧
      t = { s with h := compress s.h (blockAt (s.buf.toList.take 63 ++ [byte]) 0),
                   buf := Vector.replicate 64 0, idx := 0, len := s.len + 1,
                   rspData := 0, rspPending := true, busy := false, pos := .idle,
                   engine := t.engine, draw := t.draw }

/-- FINISH with IDX below 56 (R80, R83, R86): one compression of the IDX message bytes, 0x80, zeros and the
big-endian bit length; FLAG = PAD_FITS, IDX 0, BUF cleared, response 3; LEN and all else unchanged. -/
def Obligations.FinishPadsOneBlock : Prop :=
  ∀ s : State,
    s.err = ⟨false, false, false, false⟩ → s.flag = .streaming → s.idx.val < 56 →
    ∃ t, exec .finish s = .next t ∧ t.engine.phase = .idle ∧
      t = { s with h := compress s.h (blockAt (s.buf.toList.take s.idx.val ++ [0x80] ++
                          List.replicate (55 - s.idx.val) 0 ++ be64Bytes (BitVec.ofNat 64 (s.len.toNat * 8))) 0),
                   buf := Vector.replicate 64 0, idx := 0, flag := .padFits,
                   rspData := 3, rspPending := true, busy := false, pos := .idle,
                   engine := t.engine, draw := t.draw }

/-- FINISH with IDX 56 or above (R80, R83, R86): the block with 0x80 and zeros and no length, then one all-zero block
that ends in the length, compressed in this order (R46); FLAG = PAD_SPILLS, response 5. -/
def Obligations.FinishPadsTwoBlocks : Prop :=
  ∀ s : State,
    s.err = ⟨false, false, false, false⟩ → s.flag = .streaming → 56 ≤ s.idx.val →
    ∃ t, exec .finish s = .next t ∧ t.engine.phase = .idle ∧
      t = { s with h := compress
                     (compress s.h (blockAt (s.buf.toList.take s.idx.val ++ [0x80] ++
                        List.replicate (63 - s.idx.val) 0) 0))
                     (blockAt (List.replicate 56 0 ++ be64Bytes (BitVec.ofNat 64 (s.len.toNat * 8))) 0),
                   buf := Vector.replicate 64 0, idx := 0, flag := .padSpills,
                   rspData := 5, rspPending := true, busy := false, pos := .idle,
                   engine := t.engine, draw := t.draw }

/-- HASH_MEM N with N ≤ MSG_SIZE, in any state, error bits set or not (R87, R98): H is the digest of the bytes at
MSG[0..N−1], LEN = N, IDX 0, BUF cleared, FLAG by N mod 64, the error bits cleared, response 3 or 5; MSG and all else
but hidden engine state and the draw numbers unchanged. -/
def Obligations.HashMemDigestsTheMessage : Prop :=
  ∀ (s : State) (n : Nat), n ≤ 2 ^ s.maW.val →
    ∃ t, exec (.hashMem n) s = .next t ∧ t.engine.phase = .idle ∧ t.len.toNat = n ∧
      t = { s with h := sha256 ((List.range n).map s.memRead), len := t.len, buf := Vector.replicate 64 0, idx := 0,
                   flag := if n % 64 < 56 then .padFits else .padSpills,
                   err := ⟨false, false, false, false⟩,
                   rspData := if n % 64 < 56 then 3 else 5, rspPending := true, busy := false, pos := .idle,
                   engine := t.engine, draw := t.draw, msgEpoch := t.msgEpoch }

/-- HASH_MEM N with N > MSG_SIZE raises ERR_RANGE and changes nothing else; earlier error bits stay (R87, R97). -/
def Obligations.HashMemOutOfRange : Prop :=
  ∀ (s : State) (n : Nat), 2 ^ s.maW.val < n →
    ∃ t, exec (.hashMem n) s = .next t ∧
      t = { s with err := { s.err with range := true }, rspData := t.status, rspPending := true, busy := false,
                   pos := .idle }

/-- HASH_MEM N depends on MSG[0..N−1] alone: two states whose bytes below N read alike give the same digest, whatever
else they hold (R44, R87). -/
def Obligations.HashMemReadsOnlyItsBytes : Prop :=
  ∀ (s s' t t' : State) (n : Nat), n ≤ 2 ^ s.maW.val → n ≤ 2 ^ s'.maW.val →
    (∀ a, a < n → s.memRead a = s'.memRead a) →
    exec (.hashMem n) s = .next t → exec (.hashMem n) s' = .next t' →
    t.h = t'.h ∧ t.len = t'.len ∧ t.flag = t'.flag ∧ t.rspData = t'.rspData

/-- RD_DIGEST, RD_STATUS and RD_LEN, in any state, respond the zero-extended word H[I], STATUS and LEN, and change
nothing else (R43, R91 to R93). -/
def Obligations.ReadsRespondAndChangeNothing : Prop :=
  ∀ (s : State) (i : Fin 8),
    exec (.rdDigest i) s = .next { s with rspData := BitVec.ofNat 64 (s.h.get i).toNat, rspPending := true,
                                          busy := false, pos := .idle } ∧
    exec .rdStatus s = .next { s with rspData := s.status, rspPending := true, busy := false, pos := .idle } ∧
    exec .rdLen s = .next { s with rspData := s.len, rspPending := true, busy := false, pos := .idle }

/-! ### Errors -/

/-- While any error bit is set, ABSORB and FINISH do nothing, raise no further error and are answered with STATUS
(R98). -/
def Obligations.GatedCommandsDoNothing : Prop :=
  ∀ (s : State) (byte : Byte), s.err ≠ ⟨false, false, false, false⟩ →
    exec (.absorb byte) s = .next { s with rspData := s.status, rspPending := true, busy := false, pos := .idle } ∧
    exec .finish s = .next { s with rspData := s.status, rspPending := true, busy := false, pos := .idle }

/-- With no error bit set, ABSORB and FINISH after the message was closed raise ERR_SEQ and do nothing else (R85, R86,
R96). -/
def Obligations.ClosedMessageRaisesErrSeq : Prop :=
  ∀ (s : State) (byte : Byte), s.err = ⟨false, false, false, false⟩ → s.flag ≠ .streaming →
    ∃ t, exec (.absorb byte) s = .next t ∧ exec .finish s = .next t ∧
      t = { s with err := ⟨false, true, false, false⟩, rspData := t.status, rspPending := true, busy := false,
                   pos := .idle }

/-- With no error bit set and the message open, ABSORB at LEN = LEN_MAX = 2^61 − 1 raises ERR_LEN and does nothing
else (R21, R85, R96). -/
def Obligations.FullLengthRaisesErrLen : Prop :=
  ∀ (s : State) (byte : Byte), s.err = ⟨false, false, false, false⟩ → s.flag = .streaming →
    s.len.toNat = 2 ^ 61 - 1 →
    ∃ t, exec (.absorb byte) s = .next t ∧
      t = { s with err := ⟨false, false, true, false⟩, rspData := t.status, rspPending := true, busy := false,
                   pos := .idle }

/-- A command raises at most one error, and one that raises an error changes no other state (R97): if the error bits
after a word are not those before it and not all clear, exactly one more bit is set and H, BUF, IDX, LEN, FLAG and the
engine are as before. -/
def Obligations.ErrorsArePrecise : Prop :=
  ∀ (w : Word64) (s t : State), execWord w s = .next t → t.err ≠ s.err → t.err ≠ ⟨false, false, false, false⟩ →
    (t.err = { s.err with cmd := true } ∨ t.err = { s.err with seq := true } ∨ t.err = { s.err with len := true } ∨
      t.err = { s.err with range := true }) ∧
    t = { s with err := t.err, rspData := t.status, rspPending := true, busy := false, pos := .idle }

/-- The checks of one command word in their order (R96, R97, R100): an illegal word, a HASH_MEM length above MSG_SIZE,
the gate of ABSORB and FINISH, the closed message, the full length counter; a word that passes them raises no error. -/
def Obligations.ChecksAreMadeInOrder : Prop :=
  ∀ (w : Word64) (s : State), ∃ t, execWord w s = .next t ∧
    let answered (e : ErrorBits) : Prop :=
      t = { s with err := e, rspData := t.status, rspPending := true, busy := false, pos := .idle }
    let illegal : Prop := ∃ r, decode w = .error r
    let tooLong : Prop := ∃ n, decode w = .ok (.hashMem n) ∧ 2 ^ s.maW.val < n
    let absorb : Prop := ∃ b, decode w = .ok (.absorb b)
    let framer : Prop := absorb ∨ decode w = .ok .finish
    (illegal → answered { s.err with cmd := true }) ∧
    (tooLong → answered { s.err with range := true }) ∧
    (framer → s.err ≠ ⟨false, false, false, false⟩ → answered s.err) ∧
    (framer → s.err = ⟨false, false, false, false⟩ → s.flag ≠ .streaming → answered { s.err with seq := true }) ∧
    (absorb → s.err = ⟨false, false, false, false⟩ → s.flag = .streaming → s.len.toNat = 2 ^ 61 - 1 →
      answered { s.err with len := true }) ∧
    (¬illegal → ¬tooLong → (framer → s.err = ⟨false, false, false, false⟩ ∧ s.flag = .streaming) →
      (absorb → s.len.toNat ≠ 2 ^ 61 - 1) → t.err = s.err ∨ t.err = ⟨false, false, false, false⟩)

/-- The error bits are cleared by a legal INIT, by a HASH_MEM that passes its range check, and by no other command
word (R24, R99). -/
def Obligations.ErrorsAreCleared : Prop :=
  ∀ (w : Word64) (s t : State), execWord w s = .next t →
    (((s.err.cmd && !t.err.cmd) || (s.err.seq && !t.err.seq) || (s.err.len && !t.err.len) ||
        (s.err.range && !t.err.range)) = true →
      decode w = .ok .init ∨ ∃ n, decode w = .ok (.hashMem n) ∧ n ≤ 2 ^ s.maW.val) ∧
    ((decode w = .ok .init ∨ ∃ n, decode w = .ok (.hashMem n) ∧ n ≤ 2 ^ s.maW.val) →
      t.err = ⟨false, false, false, false⟩)

/-- Every accepted word, legal or not, in any state, completes and is answered with exactly one pending response:
H[I] for RD_DIGEST, LEN for RD_LEN and STATUS after the effects for every other word (R52, R57). MSG, MA_W and what
belongs to the host are unchanged (R33). The position idle is the model's choice (log entry 17). -/
def Obligations.EveryWordIsAnswered : Prop :=
  ∀ (w : Word64) (s : State), ∃ t, execWord w s = .next t ∧
    t.rspPending = true ∧ t.busy = false ∧ t.pos = .idle ∧
    t.rspData = (match decode w with
      | .ok (.rdDigest i) => BitVec.ofNat 64 (s.h.get i).toNat
      | .ok .rdLen => s.len
      | _ => t.status) ∧
    t.msg = s.msg ∧ t.maW = s.maW ∧ t.events = s.events ∧ t.offered = s.offered ∧ t.responses = s.responses

/-- H is written in exactly these ways (R16): set to IV by INIT, to a digest by HASH_MEM, updated by the compression of
the block that an ABSORB completes or of the one or two final blocks of a FINISH, each only when it is performed; every
other word leaves H. -/
def Obligations.DigestStateIsWrittenOnlyBy : Prop :=
  ∀ (w : Word64) (s t : State), execWord w s = .next t → t.h ≠ s.h →
    decode w = .ok .init ∧ t.h = iv ∨
    (∃ n, decode w = .ok (.hashMem n) ∧ n ≤ 2 ^ s.maW.val ∧ t.h = compressAll iv (blocksOf (padded (s.message n)))) ∨
    (∃ byte, decode w = .ok (.absorb byte) ∧ s.idx.val = 63 ∧ s.flag = .streaming ∧
      s.err = ⟨false, false, false, false⟩ ∧ s.len ≠ Config.lenMax ∧
      t.h = compress s.h (bufferWords (s.buf.set 63 byte))) ∨
    (decode w = .ok .finish ∧ s.flag = .streaming ∧ s.err = ⟨false, false, false, false⟩ ∧
      t.h = if s.idx.val < 56 then
          compress s.h (bufferWords (putLength (terminate s.buf s.idx.val) s.bitLength))
        else
          compress (compress s.h (bufferWords (terminate s.buf s.idx.val)))
            (bufferWords (putLength zeroBuffer s.bitLength)))

/-- No command reads the hidden engine state: whatever it holds, the command does the same to everything else (R14,
R26 to R28). -/
def Obligations.HiddenStateIsNotRead : Prop :=
  ∀ (w : Word64) (s : State) (e : Engine) (d : Nat), ∃ t t',
    execWord w s = .next t ∧ execWord w { s with engine := e, draw := d } = .next t' ∧
    t' = { t with engine := t'.engine, draw := t'.draw }

/-! ### The message as a whole -/

/-- After reset and after INIT the empty message is open (R84, R110). -/
def Obligations.NewMessageIsEmpty : Prop :=
  (∀ m : Fin 57, (State.resetWith m).Absorbed []) ∧
  (∀ s : State, ∃ t, exec .init s = .next t ∧ t.Absorbed [])

/-- ABSORB appends its byte to the open message, block after block (R82, R85, R90). -/
def Obligations.AbsorbAppendsToTheMessage : Prop :=
  ∀ (s : State) (m : List Byte) (byte : Byte), s.Absorbed m → m.length < 2 ^ 61 - 1 →
    ∃ t, exec (.absorb byte) s = .next t ∧ t.Absorbed (m ++ [byte])

/-- FINISH of the open message m leaves its SHA-256 digest in H (R83, R89). -/
def Obligations.FinishLeavesTheDigest : Prop :=
  ∀ (s : State) (m : List Byte), s.Absorbed m →
    ∃ t, exec .finish s = .next t ∧ t.h = sha256 m ∧ t.len.toNat = m.length ∧ t.idx = 0 ∧
      t.flag = (if m.length % 64 < 56 then .padFits else .padSpills) ∧ t.err = ⟨false, false, false, false⟩

/-- The two strategies agree (R88): HASH_MEM N and INIT, ABSORB of each of the N bytes in order, FINISH leave the same
H, LEN, IDX, BUF, FLAG and error bits. -/
def Obligations.StrategiesAgree : Prop :=
  ∀ (s : State) (n : Nat), n ≤ 2 ^ s.maW.val →
    ∃ t u, exec (.hashMem n) s = .next t ∧
      execAll ([.init] ++ ((List.range n).map fun a => .absorb (s.memRead a)) ++ [.finish]) s = .next u ∧
      t.h = u.h ∧ t.len = u.len ∧ t.idx = u.idx ∧ t.buf = u.buf ∧ t.flag = u.flag ∧ t.err = u.err

/-- The digest read out: after INIT, ABSORB of each byte of m and FINISH, RD_DIGEST I answers word I of the SHA-256
digest of m (R89, R91). -/
def Obligations.DigestIsReadOut : Prop :=
  ∀ (s : State) (m : List Byte) (i : Fin 8), m.length ≤ 2 ^ 61 - 1 →
    ∃ t, execAll ([.init] ++ m.map .absorb ++ [.finish, .rdDigest i]) s = .next t ∧
      t.rspData = BitVec.ofNat 64 ((sha256 m).get i).toNat ∧ t.rspPending = true

/-! ### The message memory -/

/-- A byte written by the host reads back, and every other address reads as before; the canonical form is kept
(R33, R43). The address is none of the message of a HASH_MEM that is in progress (R115) or presented (R47, R112). -/
def Obligations.HostWriteStoresOneByte : Prop :=
  ∀ (s : State) (a : Nat) (byte : Byte), a < 2 ^ s.maW.val → s.MemoryOk →
    (∀ n, s.hashInProgress = some n → n ≤ a) → (∀ n, s.hashOffered = some n → n ≤ a) →
    ∃ t, s.hostWrite a byte = .next t ∧ t = { s with msg := t.msg } ∧ t.MemoryOk ∧
      ∀ addr, t.memRead addr = if addr = a then byte else s.memRead addr

/-- While HASH_MEM N is in progress the host has no move that writes MSG[0..N−1], and a write to N and above is as
ever (R115), but for the message of a HASH_MEM that waits for its acceptance. -/
def Obligations.NoWriteUnderHashMem : Prop :=
  ∀ (s : State) (n a : Nat) (byte : Byte), s.hashInProgress = some n → a < 2 ^ s.maW.val →
    (a < n → s.hostWrite a byte = .refused .msgWriteDuringHash) ∧
    (n ≤ a → (∀ k, s.hashOffered = some k → k ≤ a) →
      s.hostWrite a byte = .next { s with msg := Memory.write s.msg a byte })

/-- The host completes its writes of MSG[0..N−1] before it presents HASH_MEM N (R47, R112): while that word waits for its
acceptance, the host has no move that writes there, and a write to N and above is as ever. -/
def Obligations.NoWriteAfterHashMemIsPresented : Prop :=
  ∀ (s : State) (w : Word64) (n a : Nat) (byte : Byte), s.offered = some w → decode w = .ok (.hashMem n) →
    a < 2 ^ s.maW.val →
    (a < n → ∃ r, s.hostWrite a byte = .refused r) ∧
    (n ≤ a → (∀ k, s.hashInProgress = some k → k ≤ a) →
      s.hostWrite a byte = .next { s with msg := Memory.write s.msg a byte })

/-- The writes of its message are ordered before a HASH_MEM (R44, R47): from the edge that presents HASH_MEM N to the
offer of its response no step changes a byte of MSG[0..N−1]. -/
def Obligations.MessageIsStableOnceItIsPresented : Prop :=
  ∀ (s t : State) (n a : Nat), s.MemoryOk → step s = .next t →
    s.hashOffered = some n ∨ s.hashInProgress = some n → a < n →
    Memory.lookup t.msg a = Memory.lookup s.msg a

/-- The block never writes MSG, and MA_W never changes: a step changes MSG only by the host's own write (R33, R112). -/
def Obligations.OnlyTheHostWritesMsg : Prop :=
  ∀ s t : State, step s = .next t →
    t.maW = s.maW ∧ (t.msg = s.msg ∨ ∃ a byte rest, s.events = .writeMsg a byte :: rest ∧ t.msg = Memory.write s.msg a byte)

/-! ### Ports, steps and runs -/

/-- cmd_ready = 1 exactly when rst = 0, BUSY = 0 and RSP_PENDING = 0, and a word is accepted at an edge exactly when
rst = 0, cmd_valid = 1 and cmd_ready = 1; accepting it, the word on cmd_data at that edge, sets BUSY, and at no other
edge does BUSY become 1 (R51); an idle block to which no word is presented keeps its state (R107). What the host presents
and RSP_DATA are left open: PresentedWordWaits and ResponseWordStays speak of them. That the accepted word stands in
the sequencer position is DEDUCED (log entry 11), and that the position stays as it is without a command in progress
is the model's choice (log entry 17). -/
def Obligations.CommandTransfer : Prop :=
  ∀ (s : State) (p : PortIn),
    ((s.portOut p.rst).cmdReady = true ↔ p.rst = false ∧ s.busy = false ∧ s.rspPending = false) ∧
    ((s.portOut p.rst).cmdReady = true → p.cmdValid = true → ∃ t, s.clockEdge p = .next t ∧
      t = { s with busy := true, pos := .accepted p.cmdData, rspData := t.rspData, offered := t.offered }) ∧
    ((s.portOut p.rst).cmdReady = true → p.cmdValid = false → ∃ t, s.clockEdge p = .next t ∧
      t = { s with rspData := t.rspData, offered := t.offered }) ∧
    (∀ t, s.clockEdge p = .next t → s.busy = false → t.busy = true →
      (s.portOut p.rst).cmdReady = true ∧ p.cmdValid = true)

/-- A word that an edge shows presented and not accepted waits, whatever the edge does, until an edge accepts it, shows
another one, or shows none: then it was never given (R51, R113). That the model notes the presented word at the edges
is its own choice (log entry 16), and that the accepted word stands in the sequencer position is DEDUCED (log
entry 11). -/
def Obligations.PresentedWordWaits : Prop :=
  ∀ (s t : State) (p : PortIn), s.clockEdge p = .next t →
    (p.cmdValid = true → (s.portOut p.rst).cmdReady = false → t.offered = some p.cmdData) ∧
    (p.cmdValid = true → (s.portOut p.rst).cmdReady = true → t.offered = none ∧ t.pos = .accepted p.cmdData) ∧
    (p.cmdValid = false → t.offered = none)

/-- No edge but a reset changes RSP_DATA: it is offered unchanged while it is pending (R52); that it stays when it is taken,
when the next word is accepted and while that command is in progress is the model's choice (log entry 17). -/
def Obligations.ResponseWordStays : Prop :=
  ∀ (s t : State) (p : PortIn), p.rst = false → s.clockEdge p = .next t → t.rspData = s.rspData

/-- A pending response is offered, unchanged, until an edge with rsp_ready = 1 takes it, and no command is accepted
meanwhile (R52, R114). That RSP_DATA stays when it was taken is the model's choice (log entry 17). -/
def Obligations.ResponseTransfer : Prop :=
  ∀ (s : State) (p : PortIn), s.rspPending = true → p.rst = false →
    (s.portOut p.rst).rspValid = true ∧ (s.portOut p.rst).rspData = s.rspData ∧
    (s.portOut p.rst).cmdReady = false ∧
    (p.rspReady = false → ∃ t, s.clockEdge p = .next t ∧ t = { s with offered := t.offered }) ∧
    (p.rspReady = true → ∃ t, s.clockEdge p = .next t ∧
      t = { s with rspPending := false, responses := s.responses ++ [s.rspData], offered := t.offered })

/-- The reference sequencing does what the transaction does (R7, R42, R46, R78, R108): from the acceptance of any word
by a ready block, the phase steps of the engine, the framer's actions and the memory's answers lead, in finitely many
steps, to exactly the state that the word's atomic transaction gives. The framer's steps between two phases, and so
the number of steps, are the model's choice (log entry 7). -/
def Obligations.SequencerRefinesTransactions : Prop :=
  ∀ (w : Word64) (s : State), s.ready = true → s.engine.phase = .idle →
    State.settleFor (s.commandSteps w) (s.accept w) = execWord w s

/-- A step whose next event is a transaction, in a ready block, does the offered word, whatever it is, and the response
is taken (R7, R51, R52): for a word that decodes, this runs its command; an illegal word sets ERR_CMD and is answered
with STATUS (R58, R59). That the words to come stand in a list of events is the model's choice (log entry 6), as is the
note of the word the host presents, which is gone when the word is accepted (log entry 16). -/
def Obligations.StepRunsTheDecodedCommand : Prop :=
  ∀ (s : State) (w : Word64) (rest : List Event), s.events = .transact w :: rest → s.ready = true →
    step s = taken (execWord w { s with events := rest, offered := none }) ∧
    (∀ (i : Instr) (t : State), decode w = .ok i → exec i { s with events := rest, offered := none } = .next t →
      step s = .next { t with rspPending := false, responses := t.responses ++ [t.rspData] }) ∧
    (∀ r, decode w = .error r → ∃ t, step s = .next t ∧
      t = { s with events := rest, offered := none, err := { s.err with cmd := true }, rspData := t.status, rspPending := false,
                   busy := false, pos := .idle, responses := s.responses ++ [t.status] })

/-- A run of n words offered to a ready block (R119) takes one step a word, gives exactly n responses, which are the
ones its observation shows whatever responses the host took before the run, and ends ready with no event left. That
a word takes one step is the model's choice (log entry 6). -/
def Obligations.RunAnswersEveryWord : Prop :=
  ∀ (s : State) (ws : List Word64), s.ready = true → s.events = [] →
    ∃ t rs, runSteps ws.length (s.offer ws) = .next t ∧ t.responses = s.responses ++ rs ∧
      rs.length = ws.length ∧ (t.observe ws.length).responses = rs ∧ t.ready = true ∧ t.events = []

/-- After reset R30 holds with what it says of H, for every MA_W (R30, R31). -/
def Obligations.ResetIsFramed : Prop :=
  ∀ m : Fin 57, (State.resetWith m).Framed

/-- Every command word, legal or not, keeps R30 with what it says of H (R30): an open message has LEN div 64 blocks
compressed from IV and the rest in BUF, and a closed one has its digest in H. -/
def Obligations.EveryWordKeepsTheMessageFramed : Prop :=
  ∀ (w : Word64) (s t : State), s.Framed → execWord w s = .next t → t.Framed

/-- The invariant holds after reset, for every MA_W. -/
def Obligations.ResetMeetsTheInvariant : Prop :=
  ∀ m : Fin 57, (State.resetWith m).Inv

/-- Every step keeps the invariant: transactions, clock edges, phase steps and host writes alike. The invariant is LEN ≤
LEN_MAX (R30 (2)), the memory's form (R33), one command or one response (R51, R52), the round counter (R28), and between
commands R30 (5) and R30 (3) and (4) as far as they are about IDX; it says nothing of H, of which
EveryWordKeepsTheMessageFramed speaks. What it says while a command is in progress is about the model's own positions
and steps (log entries 7 and 11). -/
def Obligations.StepKeepsTheInvariant : Prop :=
  ∀ s t : State, s.Inv → step s = .next t → t.Inv

/-- Nothing but a host write can stop the machine: in a state that meets the invariant, a step that faults or is
refused is a host write to an address outside MSG, to a byte of the message of a HASH_MEM in progress, or to one of the
message of a HASH_MEM that is presented and not accepted yet (R34, R47, R77, R95, R112, R115). The fault of a write outside
MSG is the model's choice, as the spec says nothing of such a write (log entry 10). -/
def Obligations.OnlyAHostWriteStops : Prop :=
  ∀ s : State, s.Inv →
    (∃ t, step s = .next t) ∨
    ∃ a byte rest, s.events = .writeMsg a byte :: rest ∧
      (2 ^ s.maW.val ≤ a ∧ step s = .fault .msgAddressOutside ∨
        (∃ n, s.hashInProgress = some n ∧ a < n) ∧ step s = .refused .msgWriteDuringHash ∨
        (∃ n, s.hashOffered = some n ∧ a < n) ∧ step s = .refused .msgWriteAfterOffer)
end

