-- ==== Sys2Proof/Laws/Bytes.lean ====
section
/-! SUPPORT. Blocks as bytes, and the bytes of the padded message (R37 to R39, R79). -/

namespace Sys2Proof.Machine

theorem vector_toList_getD {n : Nat} (v : Vector Byte n) (j : Nat) (h : j < n) : v.toList.getD j 0 = v[j] := by
  simp [List.getD, h]

/-- A block depends on its 64 bytes alone. -/
theorem blockAt_congr (l l' : List Byte) (a a' : Nat) (h : ∀ j < 64, l.getD (a + j) 0 = l'.getD (a' + j) 0) :
    blockAt l a = blockAt l' a' := by
  unfold blockAt
  congr 1
  funext j
  have := j.isLt
  unfold wordAt
  rw [h (4 * j) (by omega), Nat.add_assoc, h (4 * j + 1) (by omega), Nat.add_assoc, h (4 * j + 2) (by omega),
    Nat.add_assoc, h (4 * j + 3) (by omega)]
  simp only [Nat.add_assoc]

/-- The words of a buffer that holds the first 64 bytes of a sequence. -/
theorem bufferWords_eq_blockAt (buf : Buffer) (l : List Byte) (h : ∀ (j : Nat) (_ : j < 64), buf[j] = l.getD j 0) :
    bufferWords buf = blockAt l 0 := by
  apply blockAt_congr
  intro j hj
  rw [Nat.zero_add, vector_toList_getD _ _ hj, h j hj]

theorem be64Bytes_length (v : Word64) : (be64Bytes v).length = 8 := by simp [be64Bytes]

theorem be64Bytes_getD (v : Word64) (k : Nat) (h : k < 8) : (be64Bytes v).getD k 0 = be64Byte v k := by
  simp [be64Bytes, List.getD, h]

/-- z of R79. -/
theorem padZeros_spec (n : Nat) : padZeros n < 64 ∧ (n + 1 + padZeros n + 8) % 64 = 0 := by
  unfold padZeros; omega

/-- The parts of the padded message have the lengths N, 1, z and 8. -/
theorem padded_length (m : List Byte) : (padded m).length = m.length + 1 + padZeros m.length + 8 := by
  simp [padded, be64Bytes_length]; omega

theorem padded_getD_message (m : List Byte) (j : Nat) (h : j < m.length) : (padded m).getD j 0 = m.getD j 0 := by
  unfold padded; rw [List.append_assoc, List.append_assoc, List.getD_append _ _ _ _ h]

theorem padded_getD_terminator (m : List Byte) : (padded m).getD m.length 0 = 0x80 := by
  unfold padded; rw [List.append_assoc, List.append_assoc, List.getD_append_right _ _ _ _ (by omega)]; simp

theorem padded_getD_zero (m : List Byte) (j : Nat) (h : m.length < j) (h' : j < m.length + 1 + padZeros m.length) :
    (padded m).getD j 0 = 0 := by
  unfold padded
  rw [List.getD_append _ _ _ _ (by simp; omega), List.getD_append_right _ _ _ _ (by simp; omega)]
  simp [List.getD, List.getElem?_replicate]
  split <;> rfl

theorem padded_getD_length (m : List Byte) (j : Nat) (h : m.length + 1 + padZeros m.length ≤ j)
    (h' : j < m.length + 1 + padZeros m.length + 8) :
    (padded m).getD j 0 =
      be64Byte (BitVec.ofNat 64 (8 * m.length)) (j - (m.length + 1 + padZeros m.length)) := by
  unfold padded
  rw [List.getD_append_right _ _ _ _ (by simp; omega), be64Bytes_getD _ _ (by simp; omega)]
  congr 1
  simp
  omega

/-- A padded message has at least one block. -/
theorem blocksOf_padded_ne_nil (m : List Byte) : blocksOf (padded m) ≠ [] := by
  have := padZeros_spec m.length
  intro h
  have h := congrArg List.length h
  simp only [blocksOf, List.length_map, List.length_range, List.length_nil, padded_length] at h
  omega

theorem openBuffer_getElem (m : List Byte) (j : Nat) (h : j < 64) :
    (openBuffer m)[j] = m.getD (64 * (m.length / 64) + j) 0 := by
  simp [openBuffer]

end Sys2Proof.Machine
end

