-- ==== Sys2Proof/Laws/Compressor.lean ====
section
/-! SUPPORT. The schedule and the rounds one word and one round at a time, and what each phase of the engine does (R73
to R78). -/

namespace Sys2Proof.Machine

theorem vector_getD_eq {α : Type} {n : Nat} (v : Vector α n) (d : α) (i : Nat) (h : i < n) : v.getD i d = v[i] := by
  simp [Vector.getD, h]

theorem vector_getD_set_ne {n : Nat} (v : Vector Word n) (i j : Nat) (x : Word) (h : i ≠ j) :
    (v.setIfInBounds i x).getD j 0 = v.getD j 0 := by
  by_cases hj : j < n
  · rw [vector_getD_eq _ _ _ hj, vector_getD_eq _ _ _ hj, Vector.getElem_setIfInBounds_ne _ h]
  · simp [Vector.getD, hj]

theorem vector_getD_set_self {n : Nat} (v : Vector Word n) (i : Nat) (x : Word) (h : i < n) :
    (v.setIfInBounds i x).getD i 0 = x := by
  rw [vector_getD_eq _ _ _ h, Vector.getElem_setIfInBounds_self]

/-- W[i] depends on the words before it alone (R74). -/
theorem scheduleWord_congr (w w' : Schedule) (i : Nat) (hi : 16 ≤ i)
    (h : ∀ j < i, w.getD j 0 = w'.getD j 0) : scheduleWord w i = scheduleWord w' i := by
  simp only [scheduleWord, h (i - 2) (by omega), h (i - 7) (by omega), h (i - 15) (by omega), h (i - 16) (by omega)]

/-- The expansion loop leaves the words below its start. -/
theorem expandFrom_below (k : Nat) :
    ∀ (i : Nat) (w : Schedule) (j : Nat), j < i → (expandFrom k i w).getD j 0 = w.getD j 0 := by
  induction k with
  | zero => intros; rfl
  | succ k ih =>
    intro i w j h
    rw [expandFrom, ih _ _ _ (by omega), vector_getD_set_ne _ _ _ _ (by omega)]

/-- Every word that the expansion loop writes satisfies the recurrence of R73. -/
theorem expandFrom_recurrence (k : Nat) :
    ∀ (i : Nat) (w : Schedule) (j : Nat), 16 ≤ i → i + k ≤ 64 → i ≤ j → j < i + k →
      (expandFrom k i w).getD j 0 = scheduleWord (expandFrom k i w) j := by
  induction k with
  | zero => intros; omega
  | succ k ih =>
    intro i w j h16 h64 h1 h2
    rw [expandFrom]
    rcases Nat.eq_or_lt_of_le h1 with rfl | h1
    · rw [expandFrom_below _ _ _ _ (by omega), vector_getD_set_self _ _ _ (by omega)]
      apply scheduleWord_congr _ _ _ h16
      intro j hj
      rw [expandFrom_below _ _ _ _ (by omega), vector_getD_set_ne _ _ _ _ (by omega)]
    · exact ih _ _ _ (by omega) (by omega) (by omega) (by omega)

/-- The loaded schedule holds the block's words in 0 to 15. -/
theorem loadSchedule_getD (m : Block) (w : Schedule) (i : Nat) (h : i < 16) : (loadSchedule m w).getD i 0 = m[i] := by
  rw [vector_getD_eq _ _ _ (by omega)]; simp [loadSchedule, h]

/-- One more round at the end. -/
theorem roundsFrom_snoc (k : Nat) : ∀ (t : Nat) (w : Schedule) (v : Words8),
    roundsFrom (k + 1) t w v = compressionRound (t + k) (roundsFrom k t w v) (w.getD (t + k) 0) := by
  induction k with
  | zero => intros; rfl
  | succ k ih =>
    intro t w v
    rw [roundsFrom, ih, roundsFrom]
    rw [show t + 1 + k = t + (k + 1) by omega]

/-- The definition of the compression (R76), which is irreducible. -/
theorem compress_eq (h : Words8) (m : Block) : compress h m = addWords h (roundsFrom 64 0 (expand m) h) := by
  unfold compress; rfl

/-- The LOAD phase. -/
theorem State.engineStep_load (s : State) (h : s.engine.phase = .load) :
    s.engineStep = { s with engine := engineLoad s.h s.buf s.engine } := by
  simp only [State.engineStep, h]

/-- A ROUND step. -/
theorem State.engineStep_round (s : State) (h : s.engine.phase = .round) :
    s.engineStep = { s with engine := engineRound s.engine } := by
  simp only [State.engineStep, h]

/-- The ADD phase. -/
theorem State.engineStep_add (s : State) (h : s.engine.phase = .add) : s.engineStep = s.engineAdd := by
  simp only [State.engineStep, h]

/-- After a ROUND step t is one more, and the phase is ADD after round 63. -/
theorem engineRound_counter (e : Engine) (h : e.t.toNat < 64) :
    (engineRound e).t.toNat = e.t.toNat + 1 ∧
      (engineRound e).phase = if e.t.toNat < 63 then .round else .add := by
  refine ⟨?_, rfl⟩
  simp [engineRound, BitVec.toNat_add]
  omega

end Sys2Proof.Machine
end

