-- ==== Sys2Proof/Laws/Encoding.lean ====
section
/-! SUPPORT. The fields of a command word as numbers (R53 to R55). -/

namespace Sys2Proof

/-- The command word as a number: the opcode above 56 operand bits. -/
theorem encode_toNat (i : Instr) :
    (encode i).toNat = (opcodeOf i).toNat * 2 ^ 56 + (operandOf i).toNat := by
  have h := (operandOf i).isLt
  show (opcodeOf i ++ operandOf i).toNat = _
  rw [BitVec.toNat_append, ← Nat.shiftLeft_add_eq_or_of_lt h, Nat.shiftLeft_eq]

theorem opcodeField_toNat (w : Word64) : (opcodeField w).toNat = w.toNat / 2 ^ 56 := by
  have := w.isLt
  simp [opcodeField, Nat.shiftRight_eq_div_pow]
  omega

theorem operandField_toNat (w : Word64) : (operandField w).toNat = w.toNat % 2 ^ 56 := by
  simp [operandField]

theorem byteField_toNat (w : Word64) : (byteField w).toNat = w.toNat % 2 ^ 8 := by
  simp [byteField]

theorem indexField_toNat (w : Word64) : (indexField w).toNat = w.toNat % 2 ^ 3 := by
  simp [indexField]

/-- OP has the value `o`. -/
theorem opcodeField_eq_iff (w : Word64) (o : BitVec 8) : opcodeField w = o ↔ w.toNat / 2 ^ 56 = o.toNat := by
  rw [← BitVec.toNat_inj, opcodeField_toNat]

/-- All "must be 0" bits of format Z are 0 (R54). -/
theorem formatZ_bits (w : Word64) : operandField w = 0 ↔ w.toNat % 2 ^ 56 = 0 := by
  rw [← BitVec.toNat_inj, operandField_toNat]; simp

/-- All "must be 0" bits of format B are 0 (R54). -/
theorem formatB_bits (w : Word64) : w.extractLsb' 8 48 = 0 ↔ w.toNat / 2 ^ 8 % 2 ^ 48 = 0 := by
  rw [← BitVec.toNat_inj]; simp [Nat.shiftRight_eq_div_pow]

/-- All "must be 0" bits of format I are 0 (R54). -/
theorem formatI_bits (w : Word64) : w.extractLsb' 3 53 = 0 ↔ w.toNat / 2 ^ 3 % 2 ^ 53 = 0 := by
  rw [← BitVec.toNat_inj]; simp [Nat.shiftRight_eq_div_pow]

end Sys2Proof
end

