-- ==== Sys2Proof/Laws/Memory.lean ====
section
/-! SUPPORT. The message memory: a read after a write, the canonical form is kept by the one operation that writes,
and reset memory has it (R33, R43). -/

namespace Sys2Proof.Machine

/-- The rest of a canonical memory is canonical. -/
theorem Memory.wf_tail {c : Host.Cell} {mem : List Host.Cell} (h : Memory.wf (c :: mem) = true) :
    Memory.wf mem = true := by
  cases mem with
  | nil => rfl
  | cons d rest => simp only [Memory.wf, Bool.and_eq_true] at h; exact h.2

/-- A read after a write: the byte written at the address itself, and at every other address the byte before. -/
theorem Memory.lookup_write (mem : List Host.Cell) (a : Nat) (b : Byte) (x : Nat) (hw : Memory.wf mem = true) :
    Memory.lookup (Memory.write mem a b) x = if x = a then some b else Memory.lookup mem x := by
  induction mem with
  | nil => simp only [Memory.write, Memory.lookup, eq_comm]
  | cons c rest ih =>
    obtain ⟨a', b'⟩ := c
    have ih := ih (Memory.wf_tail hw)
    simp only [Memory.write]
    split
    · simp only [Memory.lookup, eq_comm]
    · split
      · rename_i h'
        subst h'
        simp only [Memory.lookup]
        by_cases h : a = x
        · rw [if_pos h, if_pos h.symm]
        · rw [if_neg h, if_neg (Ne.symm h), if_neg h]
      · rename_i h1 h2
        simp only [Memory.lookup, ih]
        by_cases h : a' = x
        · rw [if_pos h, if_neg (by omega), if_pos h]
        · rw [if_neg h, if_neg h]

/-- A write above the first entry's address keeps the form of the list with that entry. -/
theorem Memory.write_wf_cons (mem : List Host.Cell) (a : Nat) (b : Byte) (c : Host.Cell) (h : c.1 < a)
    (hw : Memory.wf (c :: mem) = true) : Memory.wf (c :: Memory.write mem a b) = true := by
  induction mem generalizing c with
  | nil => simp [Memory.write, Memory.wf, h]
  | cons d rest ih =>
    obtain ⟨a', b'⟩ := d
    simp only [Memory.wf, Bool.and_eq_true, decide_eq_true_eq] at hw
    simp only [Memory.write]
    split
    · simp [Memory.wf, *]
    · split
      · subst_vars
        have := hw.2
        cases rest <;> simp_all [Memory.wf]
      · simp only [Memory.wf, Bool.and_eq_true, decide_eq_true_eq]
        exact ⟨hw.1, ih (a', b') (by simp; omega) hw.2⟩

/-- A write keeps the canonical form. -/
theorem Memory.write_wf (mem : List Host.Cell) (a : Nat) (b : Byte) (hw : Memory.wf mem = true) :
    Memory.wf (Memory.write mem a b) = true := by
  cases mem with
  | nil => rfl
  | cons c rest =>
    obtain ⟨a', b'⟩ := c
    simp only [Memory.write]
    split
    · simp [Memory.wf, *]
    · split
      · subst_vars
        cases rest <;> simp_all [Memory.wf]
      · exact Memory.write_wf_cons rest a b (a', b') (by simp; omega) hw

/-- A write below `size` lists only addresses below `size` when the memory before it does. -/
theorem Memory.write_within (mem : List Host.Cell) (a : Nat) (b : Byte) (size : Nat) (h : a < size)
    (hw : Memory.within mem size = true) : Memory.within (Memory.write mem a b) size = true := by
  induction mem with
  | nil => simp [Memory.write, Memory.within, h]
  | cons c rest ih =>
    obtain ⟨a', b'⟩ := c
    simp only [Memory.within, List.all_cons, Bool.and_eq_true, decide_eq_true_eq] at hw ih ⊢
    simp only [Memory.write]
    split
    · simp only [List.all_cons, Bool.and_eq_true, decide_eq_true_eq]; exact ⟨h, hw⟩
    · split
      · simp only [List.all_cons, Bool.and_eq_true, decide_eq_true_eq]; exact ⟨h, hw.2⟩
      · simp only [List.all_cons, Bool.and_eq_true, decide_eq_true_eq]; exact ⟨hw.1, ih hw.2⟩

/-- MSG has at most 2^56 bytes (R8). -/
theorem State.msgSize_le (s : State) : s.msgSize ≤ 2 ^ 56 :=
  Nat.pow_le_pow_right (by omega) (by have := s.maW.isLt; omega)

/-- A read depends on the listed bytes and on the number of the draw alone. -/
theorem State.memRead_congr {s t : State} (addr : Nat) (hm : t.msg = s.msg) (he : t.msgEpoch = s.msgEpoch) :
    t.memRead addr = s.memRead addr := by
  unfold State.memRead; rw [hm, he]

/-- The memory's form depends on the memory and its size alone. -/
theorem State.memoryOk_congr {s t : State} (h : s.MemoryOk) (hm : t.msg = s.msg) (hw : t.maW = s.maW) :
    t.MemoryOk := by
  unfold State.MemoryOk State.msgSize at *; rw [hm, hw]; exact h

/-- Reset memory is in canonical form. -/
theorem State.reset_memoryOk (m : Fin 57) : (State.resetWith m).MemoryOk := ⟨rfl, rfl⟩

end Sys2Proof.Machine
end

