-- ==== Sys2Proof/Laws/State.lean ====
section
/-! SUPPORT. What each update of the state does to each field: later proofs use these and unfold no update. Each is true by
rfl once the state is taken apart (comparing an update of a variable state with that state field by field would unfold
the compression). -/

namespace Sys2Proof.Machine

/-! `State.respond` -/

@[simp] theorem State.respond_h (s : State) (v : Word64) : (s.respond v).h = s.h := by cases s; rfl
@[simp] theorem State.respond_buf (s : State) (v : Word64) : (s.respond v).buf = s.buf := by cases s; rfl
@[simp] theorem State.respond_idx (s : State) (v : Word64) : (s.respond v).idx = s.idx := by cases s; rfl
@[simp] theorem State.respond_len (s : State) (v : Word64) : (s.respond v).len = s.len := by cases s; rfl
@[simp] theorem State.respond_flag (s : State) (v : Word64) : (s.respond v).flag = s.flag := by cases s; rfl
@[simp] theorem State.respond_err (s : State) (v : Word64) : (s.respond v).err = s.err := by cases s; rfl
@[simp] theorem State.respond_engine (s : State) (v : Word64) : (s.respond v).engine = s.engine := by cases s; rfl
@[simp] theorem State.respond_busy (s : State) (v : Word64) : (s.respond v).busy = false := by cases s; rfl
@[simp] theorem State.respond_rspPending (s : State) (v : Word64) : (s.respond v).rspPending = true := by cases s; rfl
@[simp] theorem State.respond_rspData (s : State) (v : Word64) : (s.respond v).rspData = v := by cases s; rfl
@[simp] theorem State.respond_pos (s : State) (v : Word64) : (s.respond v).pos = .idle := by cases s; rfl
@[simp] theorem State.respond_msg (s : State) (v : Word64) : (s.respond v).msg = s.msg := by cases s; rfl
@[simp] theorem State.respond_maW (s : State) (v : Word64) : (s.respond v).maW = s.maW := by cases s; rfl
@[simp] theorem State.respond_events (s : State) (v : Word64) : (s.respond v).events = s.events := by cases s; rfl
@[simp] theorem State.respond_offered (s : State) (v : Word64) : (s.respond v).offered = s.offered := by cases s; rfl
@[simp] theorem State.respond_responses (s : State) (v : Word64) : (s.respond v).responses = s.responses := by cases s; rfl
@[simp] theorem State.respond_draw (s : State) (v : Word64) : (s.respond v).draw = s.draw := by cases s; rfl
@[simp] theorem State.respond_msgEpoch (s : State) (v : Word64) : (s.respond v).msgEpoch = s.msgEpoch := by cases s; rfl

/-! `State.respondStatus` -/

@[simp] theorem State.respondStatus_h (s : State) : (s.respondStatus).h = s.h := by cases s; rfl
@[simp] theorem State.respondStatus_buf (s : State) : (s.respondStatus).buf = s.buf := by cases s; rfl
@[simp] theorem State.respondStatus_idx (s : State) : (s.respondStatus).idx = s.idx := by cases s; rfl
@[simp] theorem State.respondStatus_len (s : State) : (s.respondStatus).len = s.len := by cases s; rfl
@[simp] theorem State.respondStatus_flag (s : State) : (s.respondStatus).flag = s.flag := by cases s; rfl
@[simp] theorem State.respondStatus_err (s : State) : (s.respondStatus).err = s.err := by cases s; rfl
@[simp] theorem State.respondStatus_engine (s : State) : (s.respondStatus).engine = s.engine := by cases s; rfl
@[simp] theorem State.respondStatus_busy (s : State) : (s.respondStatus).busy = false := by cases s; rfl
@[simp] theorem State.respondStatus_rspPending (s : State) : (s.respondStatus).rspPending = true := by cases s; rfl
@[simp] theorem State.respondStatus_rspData (s : State) : (s.respondStatus).rspData = s.status := by cases s; rfl
@[simp] theorem State.respondStatus_pos (s : State) : (s.respondStatus).pos = .idle := by cases s; rfl
@[simp] theorem State.respondStatus_msg (s : State) : (s.respondStatus).msg = s.msg := by cases s; rfl
@[simp] theorem State.respondStatus_maW (s : State) : (s.respondStatus).maW = s.maW := by cases s; rfl
@[simp] theorem State.respondStatus_events (s : State) : (s.respondStatus).events = s.events := by cases s; rfl
@[simp] theorem State.respondStatus_offered (s : State) : (s.respondStatus).offered = s.offered := by cases s; rfl
@[simp] theorem State.respondStatus_responses (s : State) : (s.respondStatus).responses = s.responses := by cases s; rfl
@[simp] theorem State.respondStatus_draw (s : State) : (s.respondStatus).draw = s.draw := by cases s; rfl
@[simp] theorem State.respondStatus_msgEpoch (s : State) : (s.respondStatus).msgEpoch = s.msgEpoch := by cases s; rfl

/-! `State.raise` -/

@[simp] theorem State.raise_h (s : State) (c : ErrorCause) : (s.raise c).h = s.h := by cases s; rfl
@[simp] theorem State.raise_buf (s : State) (c : ErrorCause) : (s.raise c).buf = s.buf := by cases s; rfl
@[simp] theorem State.raise_idx (s : State) (c : ErrorCause) : (s.raise c).idx = s.idx := by cases s; rfl
@[simp] theorem State.raise_len (s : State) (c : ErrorCause) : (s.raise c).len = s.len := by cases s; rfl
@[simp] theorem State.raise_flag (s : State) (c : ErrorCause) : (s.raise c).flag = s.flag := by cases s; rfl
@[simp] theorem State.raise_err (s : State) (c : ErrorCause) : (s.raise c).err = s.err.set c := by cases s; rfl
@[simp] theorem State.raise_engine (s : State) (c : ErrorCause) : (s.raise c).engine = s.engine := by cases s; rfl
@[simp] theorem State.raise_busy (s : State) (c : ErrorCause) : (s.raise c).busy = false := by cases s; rfl
@[simp] theorem State.raise_rspPending (s : State) (c : ErrorCause) : (s.raise c).rspPending = true := by cases s; rfl
@[simp] theorem State.raise_pos (s : State) (c : ErrorCause) : (s.raise c).pos = .idle := by cases s; rfl
@[simp] theorem State.raise_msg (s : State) (c : ErrorCause) : (s.raise c).msg = s.msg := by cases s; rfl
@[simp] theorem State.raise_maW (s : State) (c : ErrorCause) : (s.raise c).maW = s.maW := by cases s; rfl
@[simp] theorem State.raise_events (s : State) (c : ErrorCause) : (s.raise c).events = s.events := by cases s; rfl
@[simp] theorem State.raise_offered (s : State) (c : ErrorCause) : (s.raise c).offered = s.offered := by cases s; rfl
@[simp] theorem State.raise_responses (s : State) (c : ErrorCause) : (s.raise c).responses = s.responses := by cases s; rfl
@[simp] theorem State.raise_draw (s : State) (c : ErrorCause) : (s.raise c).draw = s.draw := by cases s; rfl
@[simp] theorem State.raise_msgEpoch (s : State) (c : ErrorCause) : (s.raise c).msgEpoch = s.msgEpoch := by cases s; rfl

/-! `State.startMessage` -/

@[simp] theorem State.startMessage_h (s : State) : (s.startMessage).h = iv := by cases s; rfl
@[simp] theorem State.startMessage_buf (s : State) : (s.startMessage).buf = zeroBuffer := by cases s; rfl
@[simp] theorem State.startMessage_idx (s : State) : (s.startMessage).idx = 0 := by cases s; rfl
@[simp] theorem State.startMessage_len (s : State) : (s.startMessage).len = 0 := by cases s; rfl
@[simp] theorem State.startMessage_flag (s : State) : (s.startMessage).flag = .streaming := by cases s; rfl
@[simp] theorem State.startMessage_err (s : State) : (s.startMessage).err = noErrors := by cases s; rfl
@[simp] theorem State.startMessage_engine (s : State) : (s.startMessage).engine = s.engine := by cases s; rfl
@[simp] theorem State.startMessage_busy (s : State) : (s.startMessage).busy = s.busy := by cases s; rfl
@[simp] theorem State.startMessage_rspPending (s : State) : (s.startMessage).rspPending = s.rspPending := by cases s; rfl
@[simp] theorem State.startMessage_rspData (s : State) : (s.startMessage).rspData = s.rspData := by cases s; rfl
@[simp] theorem State.startMessage_pos (s : State) : (s.startMessage).pos = s.pos := by cases s; rfl
@[simp] theorem State.startMessage_msg (s : State) : (s.startMessage).msg = s.msg := by cases s; rfl
@[simp] theorem State.startMessage_maW (s : State) : (s.startMessage).maW = s.maW := by cases s; rfl
@[simp] theorem State.startMessage_events (s : State) : (s.startMessage).events = s.events := by cases s; rfl
@[simp] theorem State.startMessage_offered (s : State) : (s.startMessage).offered = s.offered := by cases s; rfl
@[simp] theorem State.startMessage_responses (s : State) : (s.startMessage).responses = s.responses := by cases s; rfl
@[simp] theorem State.startMessage_draw (s : State) : (s.startMessage).draw = s.draw := by cases s; rfl
@[simp] theorem State.startMessage_msgEpoch (s : State) : (s.startMessage).msgEpoch = s.msgEpoch := by cases s; rfl

/-! `State.releaseEngine` -/

@[simp] theorem State.releaseEngine_h (s : State) : (s.releaseEngine).h = s.h := by cases s; rfl
@[simp] theorem State.releaseEngine_buf (s : State) : (s.releaseEngine).buf = s.buf := by cases s; rfl
@[simp] theorem State.releaseEngine_idx (s : State) : (s.releaseEngine).idx = s.idx := by cases s; rfl
@[simp] theorem State.releaseEngine_len (s : State) : (s.releaseEngine).len = s.len := by cases s; rfl
@[simp] theorem State.releaseEngine_flag (s : State) : (s.releaseEngine).flag = s.flag := by cases s; rfl
@[simp] theorem State.releaseEngine_err (s : State) : (s.releaseEngine).err = s.err := by cases s; rfl
@[simp] theorem State.releaseEngine_engine (s : State) : (s.releaseEngine).engine = releasedEngine s.draw := by cases s; rfl
@[simp] theorem State.releaseEngine_busy (s : State) : (s.releaseEngine).busy = s.busy := by cases s; rfl
@[simp] theorem State.releaseEngine_rspPending (s : State) : (s.releaseEngine).rspPending = s.rspPending := by cases s; rfl
@[simp] theorem State.releaseEngine_rspData (s : State) : (s.releaseEngine).rspData = s.rspData := by cases s; rfl
@[simp] theorem State.releaseEngine_pos (s : State) : (s.releaseEngine).pos = s.pos := by cases s; rfl
@[simp] theorem State.releaseEngine_msg (s : State) : (s.releaseEngine).msg = s.msg := by cases s; rfl
@[simp] theorem State.releaseEngine_maW (s : State) : (s.releaseEngine).maW = s.maW := by cases s; rfl
@[simp] theorem State.releaseEngine_events (s : State) : (s.releaseEngine).events = s.events := by cases s; rfl
@[simp] theorem State.releaseEngine_offered (s : State) : (s.releaseEngine).offered = s.offered := by cases s; rfl
@[simp] theorem State.releaseEngine_responses (s : State) : (s.releaseEngine).responses = s.responses := by cases s; rfl
@[simp] theorem State.releaseEngine_draw (s : State) : (s.releaseEngine).draw = s.draw + 1 := by cases s; rfl
@[simp] theorem State.releaseEngine_msgEpoch (s : State) : (s.releaseEngine).msgEpoch = s.msgEpoch := by cases s; rfl

/-! `State.compressBlock` -/

@[simp] theorem State.compressBlock_h (s : State) (m : Block) : (s.compressBlock m).h = compress s.h m := by cases s; rfl
@[simp] theorem State.compressBlock_buf (s : State) (m : Block) : (s.compressBlock m).buf = s.buf := by cases s; rfl
@[simp] theorem State.compressBlock_idx (s : State) (m : Block) : (s.compressBlock m).idx = s.idx := by cases s; rfl
@[simp] theorem State.compressBlock_len (s : State) (m : Block) : (s.compressBlock m).len = s.len := by cases s; rfl
@[simp] theorem State.compressBlock_flag (s : State) (m : Block) : (s.compressBlock m).flag = s.flag := by cases s; rfl
@[simp] theorem State.compressBlock_err (s : State) (m : Block) : (s.compressBlock m).err = s.err := by cases s; rfl
@[simp] theorem State.compressBlock_engine (s : State) (m : Block) : (s.compressBlock m).engine = releasedEngine s.draw := by cases s; rfl
@[simp] theorem State.compressBlock_busy (s : State) (m : Block) : (s.compressBlock m).busy = s.busy := by cases s; rfl
@[simp] theorem State.compressBlock_rspPending (s : State) (m : Block) : (s.compressBlock m).rspPending = s.rspPending := by cases s; rfl
@[simp] theorem State.compressBlock_rspData (s : State) (m : Block) : (s.compressBlock m).rspData = s.rspData := by cases s; rfl
@[simp] theorem State.compressBlock_pos (s : State) (m : Block) : (s.compressBlock m).pos = s.pos := by cases s; rfl
@[simp] theorem State.compressBlock_msg (s : State) (m : Block) : (s.compressBlock m).msg = s.msg := by cases s; rfl
@[simp] theorem State.compressBlock_maW (s : State) (m : Block) : (s.compressBlock m).maW = s.maW := by cases s; rfl
@[simp] theorem State.compressBlock_events (s : State) (m : Block) : (s.compressBlock m).events = s.events := by cases s; rfl
@[simp] theorem State.compressBlock_offered (s : State) (m : Block) : (s.compressBlock m).offered = s.offered := by cases s; rfl
@[simp] theorem State.compressBlock_responses (s : State) (m : Block) : (s.compressBlock m).responses = s.responses := by cases s; rfl
@[simp] theorem State.compressBlock_draw (s : State) (m : Block) : (s.compressBlock m).draw = s.draw + 1 := by cases s; rfl
@[simp] theorem State.compressBlock_msgEpoch (s : State) (m : Block) : (s.compressBlock m).msgEpoch = s.msgEpoch := by cases s; rfl

/-! `State.compressBuf` -/

@[simp] theorem State.compressBuf_h (s : State) : (s.compressBuf).h = compress s.h (bufferWords s.buf) := by cases s; rfl
@[simp] theorem State.compressBuf_buf (s : State) : (s.compressBuf).buf = s.buf := by cases s; rfl
@[simp] theorem State.compressBuf_idx (s : State) : (s.compressBuf).idx = s.idx := by cases s; rfl
@[simp] theorem State.compressBuf_len (s : State) : (s.compressBuf).len = s.len := by cases s; rfl
@[simp] theorem State.compressBuf_flag (s : State) : (s.compressBuf).flag = s.flag := by cases s; rfl
@[simp] theorem State.compressBuf_err (s : State) : (s.compressBuf).err = s.err := by cases s; rfl
@[simp] theorem State.compressBuf_engine (s : State) : (s.compressBuf).engine = releasedEngine s.draw := by cases s; rfl
@[simp] theorem State.compressBuf_busy (s : State) : (s.compressBuf).busy = s.busy := by cases s; rfl
@[simp] theorem State.compressBuf_rspPending (s : State) : (s.compressBuf).rspPending = s.rspPending := by cases s; rfl
@[simp] theorem State.compressBuf_rspData (s : State) : (s.compressBuf).rspData = s.rspData := by cases s; rfl
@[simp] theorem State.compressBuf_pos (s : State) : (s.compressBuf).pos = s.pos := by cases s; rfl
@[simp] theorem State.compressBuf_msg (s : State) : (s.compressBuf).msg = s.msg := by cases s; rfl
@[simp] theorem State.compressBuf_maW (s : State) : (s.compressBuf).maW = s.maW := by cases s; rfl
@[simp] theorem State.compressBuf_events (s : State) : (s.compressBuf).events = s.events := by cases s; rfl
@[simp] theorem State.compressBuf_offered (s : State) : (s.compressBuf).offered = s.offered := by cases s; rfl
@[simp] theorem State.compressBuf_responses (s : State) : (s.compressBuf).responses = s.responses := by cases s; rfl
@[simp] theorem State.compressBuf_draw (s : State) : (s.compressBuf).draw = s.draw + 1 := by cases s; rfl
@[simp] theorem State.compressBuf_msgEpoch (s : State) : (s.compressBuf).msgEpoch = s.msgEpoch := by cases s; rfl

/-! `State.storeByte` -/

@[simp] theorem State.storeByte_h (s : State) (b : Byte) : (s.storeByte b).h = s.h := by cases s; rfl
@[simp] theorem State.storeByte_buf (s : State) (b : Byte) : (s.storeByte b).buf = s.buf.set s.idx.val b s.idx.isLt := by cases s; rfl
@[simp] theorem State.storeByte_idx (s : State) (b : Byte) : (s.storeByte b).idx = s.idx + 1 := by cases s; rfl
@[simp] theorem State.storeByte_len (s : State) (b : Byte) : (s.storeByte b).len = s.len + 1 := by cases s; rfl
@[simp] theorem State.storeByte_flag (s : State) (b : Byte) : (s.storeByte b).flag = s.flag := by cases s; rfl
@[simp] theorem State.storeByte_err (s : State) (b : Byte) : (s.storeByte b).err = s.err := by cases s; rfl
@[simp] theorem State.storeByte_engine (s : State) (b : Byte) : (s.storeByte b).engine = s.engine := by cases s; rfl
@[simp] theorem State.storeByte_busy (s : State) (b : Byte) : (s.storeByte b).busy = s.busy := by cases s; rfl
@[simp] theorem State.storeByte_rspPending (s : State) (b : Byte) : (s.storeByte b).rspPending = s.rspPending := by cases s; rfl
@[simp] theorem State.storeByte_rspData (s : State) (b : Byte) : (s.storeByte b).rspData = s.rspData := by cases s; rfl
@[simp] theorem State.storeByte_pos (s : State) (b : Byte) : (s.storeByte b).pos = s.pos := by cases s; rfl
@[simp] theorem State.storeByte_msg (s : State) (b : Byte) : (s.storeByte b).msg = s.msg := by cases s; rfl
@[simp] theorem State.storeByte_maW (s : State) (b : Byte) : (s.storeByte b).maW = s.maW := by cases s; rfl
@[simp] theorem State.storeByte_events (s : State) (b : Byte) : (s.storeByte b).events = s.events := by cases s; rfl
@[simp] theorem State.storeByte_offered (s : State) (b : Byte) : (s.storeByte b).offered = s.offered := by cases s; rfl
@[simp] theorem State.storeByte_responses (s : State) (b : Byte) : (s.storeByte b).responses = s.responses := by cases s; rfl
@[simp] theorem State.storeByte_draw (s : State) (b : Byte) : (s.storeByte b).draw = s.draw := by cases s; rfl
@[simp] theorem State.storeByte_msgEpoch (s : State) (b : Byte) : (s.storeByte b).msgEpoch = s.msgEpoch := by cases s; rfl

/-! `State.startEngine` -/

@[simp] theorem State.startEngine_h (s : State) : (s.startEngine).h = s.h := by cases s; rfl
@[simp] theorem State.startEngine_buf (s : State) : (s.startEngine).buf = s.buf := by cases s; rfl
@[simp] theorem State.startEngine_idx (s : State) : (s.startEngine).idx = s.idx := by cases s; rfl
@[simp] theorem State.startEngine_len (s : State) : (s.startEngine).len = s.len := by cases s; rfl
@[simp] theorem State.startEngine_flag (s : State) : (s.startEngine).flag = s.flag := by cases s; rfl
@[simp] theorem State.startEngine_err (s : State) : (s.startEngine).err = s.err := by cases s; rfl
@[simp] theorem State.startEngine_busy (s : State) : (s.startEngine).busy = s.busy := by cases s; rfl
@[simp] theorem State.startEngine_rspPending (s : State) : (s.startEngine).rspPending = s.rspPending := by cases s; rfl
@[simp] theorem State.startEngine_rspData (s : State) : (s.startEngine).rspData = s.rspData := by cases s; rfl
@[simp] theorem State.startEngine_pos (s : State) : (s.startEngine).pos = s.pos := by cases s; rfl
@[simp] theorem State.startEngine_msg (s : State) : (s.startEngine).msg = s.msg := by cases s; rfl
@[simp] theorem State.startEngine_maW (s : State) : (s.startEngine).maW = s.maW := by cases s; rfl
@[simp] theorem State.startEngine_events (s : State) : (s.startEngine).events = s.events := by cases s; rfl
@[simp] theorem State.startEngine_offered (s : State) : (s.startEngine).offered = s.offered := by cases s; rfl
@[simp] theorem State.startEngine_responses (s : State) : (s.startEngine).responses = s.responses := by cases s; rfl
@[simp] theorem State.startEngine_draw (s : State) : (s.startEngine).draw = s.draw := by cases s; rfl
@[simp] theorem State.startEngine_msgEpoch (s : State) : (s.startEngine).msgEpoch = s.msgEpoch := by cases s; rfl

/-! `State.engineAdd` -/

@[simp] theorem State.engineAdd_h (s : State) : (s.engineAdd).h = addWords s.h s.engine.vars := by cases s; rfl
@[simp] theorem State.engineAdd_buf (s : State) : (s.engineAdd).buf = s.buf := by cases s; rfl
@[simp] theorem State.engineAdd_idx (s : State) : (s.engineAdd).idx = s.idx := by cases s; rfl
@[simp] theorem State.engineAdd_len (s : State) : (s.engineAdd).len = s.len := by cases s; rfl
@[simp] theorem State.engineAdd_flag (s : State) : (s.engineAdd).flag = s.flag := by cases s; rfl
@[simp] theorem State.engineAdd_err (s : State) : (s.engineAdd).err = s.err := by cases s; rfl
@[simp] theorem State.engineAdd_engine (s : State) : (s.engineAdd).engine = releasedEngine s.draw := by cases s; rfl
@[simp] theorem State.engineAdd_busy (s : State) : (s.engineAdd).busy = s.busy := by cases s; rfl
@[simp] theorem State.engineAdd_rspPending (s : State) : (s.engineAdd).rspPending = s.rspPending := by cases s; rfl
@[simp] theorem State.engineAdd_rspData (s : State) : (s.engineAdd).rspData = s.rspData := by cases s; rfl
@[simp] theorem State.engineAdd_pos (s : State) : (s.engineAdd).pos = s.pos := by cases s; rfl
@[simp] theorem State.engineAdd_msg (s : State) : (s.engineAdd).msg = s.msg := by cases s; rfl
@[simp] theorem State.engineAdd_maW (s : State) : (s.engineAdd).maW = s.maW := by cases s; rfl
@[simp] theorem State.engineAdd_events (s : State) : (s.engineAdd).events = s.events := by cases s; rfl
@[simp] theorem State.engineAdd_offered (s : State) : (s.engineAdd).offered = s.offered := by cases s; rfl
@[simp] theorem State.engineAdd_responses (s : State) : (s.engineAdd).responses = s.responses := by cases s; rfl
@[simp] theorem State.engineAdd_draw (s : State) : (s.engineAdd).draw = s.draw + 1 := by cases s; rfl
@[simp] theorem State.engineAdd_msgEpoch (s : State) : (s.engineAdd).msgEpoch = s.msgEpoch := by cases s; rfl

/-! `State.accept` -/

@[simp] theorem State.accept_h (s : State) (w : Word64) : (s.accept w).h = s.h := by cases s; rfl
@[simp] theorem State.accept_buf (s : State) (w : Word64) : (s.accept w).buf = s.buf := by cases s; rfl
@[simp] theorem State.accept_idx (s : State) (w : Word64) : (s.accept w).idx = s.idx := by cases s; rfl
@[simp] theorem State.accept_len (s : State) (w : Word64) : (s.accept w).len = s.len := by cases s; rfl
@[simp] theorem State.accept_flag (s : State) (w : Word64) : (s.accept w).flag = s.flag := by cases s; rfl
@[simp] theorem State.accept_err (s : State) (w : Word64) : (s.accept w).err = s.err := by cases s; rfl
@[simp] theorem State.accept_engine (s : State) (w : Word64) : (s.accept w).engine = s.engine := by cases s; rfl
@[simp] theorem State.accept_busy (s : State) (w : Word64) : (s.accept w).busy = true := by cases s; rfl
@[simp] theorem State.accept_rspPending (s : State) (w : Word64) : (s.accept w).rspPending = s.rspPending := by cases s; rfl
@[simp] theorem State.accept_rspData (s : State) (w : Word64) : (s.accept w).rspData = s.rspData := by cases s; rfl
@[simp] theorem State.accept_pos (s : State) (w : Word64) : (s.accept w).pos = .accepted w := by cases s; rfl
@[simp] theorem State.accept_msg (s : State) (w : Word64) : (s.accept w).msg = s.msg := by cases s; rfl
@[simp] theorem State.accept_maW (s : State) (w : Word64) : (s.accept w).maW = s.maW := by cases s; rfl
@[simp] theorem State.accept_events (s : State) (w : Word64) : (s.accept w).events = s.events := by cases s; rfl
@[simp] theorem State.accept_offered (s : State) (w : Word64) : (s.accept w).offered = s.offered := by cases s; rfl
@[simp] theorem State.accept_responses (s : State) (w : Word64) : (s.accept w).responses = s.responses := by cases s; rfl
@[simp] theorem State.accept_draw (s : State) (w : Word64) : (s.accept w).draw = s.draw := by cases s; rfl
@[simp] theorem State.accept_msgEpoch (s : State) (w : Word64) : (s.accept w).msgEpoch = s.msgEpoch := by cases s; rfl

/-! `State.takeResponse` -/

@[simp] theorem State.takeResponse_h (s : State) : (s.takeResponse).h = s.h := by cases s; rfl
@[simp] theorem State.takeResponse_buf (s : State) : (s.takeResponse).buf = s.buf := by cases s; rfl
@[simp] theorem State.takeResponse_idx (s : State) : (s.takeResponse).idx = s.idx := by cases s; rfl
@[simp] theorem State.takeResponse_len (s : State) : (s.takeResponse).len = s.len := by cases s; rfl
@[simp] theorem State.takeResponse_flag (s : State) : (s.takeResponse).flag = s.flag := by cases s; rfl
@[simp] theorem State.takeResponse_err (s : State) : (s.takeResponse).err = s.err := by cases s; rfl
@[simp] theorem State.takeResponse_engine (s : State) : (s.takeResponse).engine = s.engine := by cases s; rfl
@[simp] theorem State.takeResponse_busy (s : State) : (s.takeResponse).busy = s.busy := by cases s; rfl
@[simp] theorem State.takeResponse_rspPending (s : State) : (s.takeResponse).rspPending = false := by cases s; rfl
@[simp] theorem State.takeResponse_rspData (s : State) : (s.takeResponse).rspData = s.rspData := by cases s; rfl
@[simp] theorem State.takeResponse_pos (s : State) : (s.takeResponse).pos = s.pos := by cases s; rfl
@[simp] theorem State.takeResponse_msg (s : State) : (s.takeResponse).msg = s.msg := by cases s; rfl
@[simp] theorem State.takeResponse_maW (s : State) : (s.takeResponse).maW = s.maW := by cases s; rfl
@[simp] theorem State.takeResponse_events (s : State) : (s.takeResponse).events = s.events := by cases s; rfl
@[simp] theorem State.takeResponse_offered (s : State) : (s.takeResponse).offered = s.offered := by cases s; rfl
@[simp] theorem State.takeResponse_responses (s : State) : (s.takeResponse).responses = s.responses ++ [s.rspData] := by cases s; rfl
@[simp] theorem State.takeResponse_draw (s : State) : (s.takeResponse).draw = s.draw := by cases s; rfl
@[simp] theorem State.takeResponse_msgEpoch (s : State) : (s.takeResponse).msgEpoch = s.msgEpoch := by cases s; rfl

/-! `State.resetBlock` -/

@[simp] theorem State.resetBlock_h (s : State) : (s.resetBlock).h = iv := by cases s; rfl
@[simp] theorem State.resetBlock_buf (s : State) : (s.resetBlock).buf = zeroBuffer := by cases s; rfl
@[simp] theorem State.resetBlock_idx (s : State) : (s.resetBlock).idx = 0 := by cases s; rfl
@[simp] theorem State.resetBlock_len (s : State) : (s.resetBlock).len = 0 := by cases s; rfl
@[simp] theorem State.resetBlock_flag (s : State) : (s.resetBlock).flag = .streaming := by cases s; rfl
@[simp] theorem State.resetBlock_err (s : State) : (s.resetBlock).err = noErrors := by cases s; rfl
@[simp] theorem State.resetBlock_engine (s : State) : (s.resetBlock).engine = resetEngine := by cases s; rfl
@[simp] theorem State.resetBlock_busy (s : State) : (s.resetBlock).busy = false := by cases s; rfl
@[simp] theorem State.resetBlock_rspPending (s : State) : (s.resetBlock).rspPending = false := by cases s; rfl
@[simp] theorem State.resetBlock_rspData (s : State) : (s.resetBlock).rspData = 0 := by cases s; rfl
@[simp] theorem State.resetBlock_pos (s : State) : (s.resetBlock).pos = .idle := by cases s; rfl
@[simp] theorem State.resetBlock_msg (s : State) : (s.resetBlock).msg = s.msg := by cases s; rfl
@[simp] theorem State.resetBlock_maW (s : State) : (s.resetBlock).maW = s.maW := by cases s; rfl
@[simp] theorem State.resetBlock_events (s : State) : (s.resetBlock).events = s.events := by cases s; rfl
@[simp] theorem State.resetBlock_offered (s : State) : (s.resetBlock).offered = s.offered := by cases s; rfl
@[simp] theorem State.resetBlock_responses (s : State) : (s.resetBlock).responses = s.responses := by cases s; rfl
@[simp] theorem State.resetBlock_draw (s : State) : (s.resetBlock).draw = s.draw := by cases s; rfl
@[simp] theorem State.resetBlock_msgEpoch (s : State) : (s.resetBlock).msgEpoch = s.msgEpoch := by cases s; rfl

/-! `State.present` -/

@[simp] theorem State.present_h (s : State) (p : PortIn) : (s.present p).h = s.h := by cases s; rfl
@[simp] theorem State.present_buf (s : State) (p : PortIn) : (s.present p).buf = s.buf := by cases s; rfl
@[simp] theorem State.present_idx (s : State) (p : PortIn) : (s.present p).idx = s.idx := by cases s; rfl
@[simp] theorem State.present_len (s : State) (p : PortIn) : (s.present p).len = s.len := by cases s; rfl
@[simp] theorem State.present_flag (s : State) (p : PortIn) : (s.present p).flag = s.flag := by cases s; rfl
@[simp] theorem State.present_err (s : State) (p : PortIn) : (s.present p).err = s.err := by cases s; rfl
@[simp] theorem State.present_engine (s : State) (p : PortIn) : (s.present p).engine = s.engine := by cases s; rfl
@[simp] theorem State.present_busy (s : State) (p : PortIn) : (s.present p).busy = s.busy := by cases s; rfl
@[simp] theorem State.present_rspPending (s : State) (p : PortIn) : (s.present p).rspPending = s.rspPending := by cases s; rfl
@[simp] theorem State.present_rspData (s : State) (p : PortIn) : (s.present p).rspData = s.rspData := by cases s; rfl
@[simp] theorem State.present_pos (s : State) (p : PortIn) : (s.present p).pos = s.pos := by cases s; rfl
@[simp] theorem State.present_msg (s : State) (p : PortIn) : (s.present p).msg = s.msg := by cases s; rfl
@[simp] theorem State.present_maW (s : State) (p : PortIn) : (s.present p).maW = s.maW := by cases s; rfl
@[simp] theorem State.present_events (s : State) (p : PortIn) : (s.present p).events = s.events := by cases s; rfl
@[simp] theorem State.present_responses (s : State) (p : PortIn) : (s.present p).responses = s.responses := by cases s; rfl
@[simp] theorem State.present_draw (s : State) (p : PortIn) : (s.present p).draw = s.draw := by cases s; rfl
@[simp] theorem State.present_msgEpoch (s : State) (p : PortIn) : (s.present p).msgEpoch = s.msgEpoch := by cases s; rfl
@[simp] theorem State.present_offered (s : State) (p : PortIn) :
    (s.present p).offered = if p.cmdValid && !(s.portOut p.rst).cmdReady then some p.cmdData else none := by cases s; rfl

/-! `State.acceptTransact` -/

@[simp] theorem State.acceptTransact_h (s : State) (es : List Event) : (s.acceptTransact es).h = s.h := by cases s; rfl
@[simp] theorem State.acceptTransact_buf (s : State) (es : List Event) : (s.acceptTransact es).buf = s.buf := by cases s; rfl
@[simp] theorem State.acceptTransact_idx (s : State) (es : List Event) : (s.acceptTransact es).idx = s.idx := by cases s; rfl
@[simp] theorem State.acceptTransact_len (s : State) (es : List Event) : (s.acceptTransact es).len = s.len := by cases s; rfl
@[simp] theorem State.acceptTransact_flag (s : State) (es : List Event) : (s.acceptTransact es).flag = s.flag := by cases s; rfl
@[simp] theorem State.acceptTransact_err (s : State) (es : List Event) : (s.acceptTransact es).err = s.err := by cases s; rfl
@[simp] theorem State.acceptTransact_engine (s : State) (es : List Event) : (s.acceptTransact es).engine = s.engine := by cases s; rfl
@[simp] theorem State.acceptTransact_busy (s : State) (es : List Event) : (s.acceptTransact es).busy = s.busy := by cases s; rfl
@[simp] theorem State.acceptTransact_rspPending (s : State) (es : List Event) : (s.acceptTransact es).rspPending = s.rspPending := by cases s; rfl
@[simp] theorem State.acceptTransact_rspData (s : State) (es : List Event) : (s.acceptTransact es).rspData = s.rspData := by cases s; rfl
@[simp] theorem State.acceptTransact_pos (s : State) (es : List Event) : (s.acceptTransact es).pos = s.pos := by cases s; rfl
@[simp] theorem State.acceptTransact_msg (s : State) (es : List Event) : (s.acceptTransact es).msg = s.msg := by cases s; rfl
@[simp] theorem State.acceptTransact_maW (s : State) (es : List Event) : (s.acceptTransact es).maW = s.maW := by cases s; rfl
@[simp] theorem State.acceptTransact_events (s : State) (es : List Event) : (s.acceptTransact es).events = es := by cases s; rfl
@[simp] theorem State.acceptTransact_responses (s : State) (es : List Event) : (s.acceptTransact es).responses = s.responses := by cases s; rfl
@[simp] theorem State.acceptTransact_draw (s : State) (es : List Event) : (s.acceptTransact es).draw = s.draw := by cases s; rfl
@[simp] theorem State.acceptTransact_msgEpoch (s : State) (es : List Event) : (s.acceptTransact es).msgEpoch = s.msgEpoch := by cases s; rfl
@[simp] theorem State.acceptTransact_offered (s : State) (es : List Event) : (s.acceptTransact es).offered = none := by cases s; rfl

end Sys2Proof.Machine
end

