-- ==== Sys2Proof/Laws/Ops.lean ====
section
/-! SUPPORT. What each shared operation of the commands does, once: the checks, absorb_byte, finish and the
compressions of HASH_MEM (R82, R83, R87, R100). -/

namespace Sys2Proof.Machine

/-- No error bit is set exactly when all four are clear (R24). -/
theorem ErrorBits.any_eq_false (e : ErrorBits) : e.any = false ↔ e = noErrors := by
  obtain ⟨a, b, c, d⟩ := e
  cases a <;> cases b <;> cases c <;> cases d <;> decide

/-- ABSORB is performed exactly with no error bit set, the message open and LEN below LEN_MAX (R100). -/
theorem State.absorbCheck_perform (s : State) :
    s.absorbCheck = .perform ↔ s.err = noErrors ∧ s.flag = .streaming ∧ s.len ≠ Config.lenMax := by
  rw [← ErrorBits.any_eq_false]
  unfold State.absorbCheck
  by_cases h1 : s.err.any = true
  · simp [h1]
  · by_cases h2 : s.flag = .streaming
    · by_cases h3 : s.len = Config.lenMax <;> simp [h1, h2, h3]
    · simp [h1, h2]

/-- FINISH is performed exactly with no error bit set and the message open (R100). -/
theorem State.finishCheck_perform (s : State) :
    s.finishCheck = .perform ↔ s.err = noErrors ∧ s.flag = .streaming := by
  rw [← ErrorBits.any_eq_false]
  unfold State.finishCheck
  by_cases h1 : s.err.any = true
  · simp [h1]
  · by_cases h2 : s.flag = .streaming <;> simp [h1, h2]

/-- HASH_MEM is performed exactly with N at most MSG_SIZE (R100). -/
theorem State.hashCheck_perform (s : State) (n : Nat) : s.hashCheck n = .perform ↔ n ≤ s.msgSize := by
  unfold State.hashCheck
  by_cases h : s.msgSize < n
  · simp [h, Nat.not_le.2 h]
  · simp [h, Nat.not_lt.1 h]

/-- STATUS of an open message without errors is its IDX alone (R25). -/
theorem State.status_open (s : State) (he : s.err = noErrors) (hf : s.flag = .streaming) :
    s.status = BitVec.ofNat 64 (8 * s.idx.val) := by
  have e : ∀ i : Fin 64, BitVec.setWidth 64 (noErrors.bits ++ 0#7 ++ BitVec.ofNat 6 i.val ++
      CompletionFlag.streaming.bits ++ BitVec.ofBool false) = BitVec.ofNat 64 (8 * i.val) := by decide
  simp only [State.status, State.done, he, hf]
  exact e s.idx

/-- STATUS of a closed message without errors (R25). -/
theorem State.status_closed (s : State) (he : s.err = noErrors) (hi : s.idx = 0) :
    (s.flag = .padFits → s.status = 3) ∧ (s.flag = .padSpills → s.status = 5) := by
  constructor <;> intro hf <;> simp only [State.status, State.done, he, hf, hi] <;> decide

theorem State.absorbByte_full (s : State) (byte : Byte) (h : s.idx.val + 1 = 64) :
    s.absorbByte byte = { (s.storeByte byte).compressBuf with buf := zeroBuffer, idx := 0 } := by
  simp only [State.absorbByte, h, if_true]

theorem State.absorbByte_part (s : State) (byte : Byte) (h : s.idx.val + 1 ≠ 64) :
    s.absorbByte byte = s.storeByte byte := by
  simp only [State.absorbByte, h, if_false]

/-- Everything that absorb_byte does: LEN is one more, IDX goes on modulo 64, and H, the engine and the draw number
change only where the byte completes a block; all else but BUF is as before (R82). -/
theorem State.absorbByte_spec (s : State) (byte : Byte) :
    ∃ (h : Words8) (buf : Buffer) (idx : Fin 64) (e : Engine),
      s.absorbByte byte = { s with
        h := h, buf := buf, idx := idx, len := s.len + 1, engine := e, draw := s.draw + (s.idx.val + 1) / 64 } ∧
      idx.val = (s.idx.val + 1) % 64 ∧
      (s.engine.phase = .idle → e.phase = .idle) ∧
      (s.idx.val + 1 ≠ 64 → h = s.h ∧ buf = s.buf.set s.idx.val byte s.idx.isLt ∧ e = s.engine) ∧
      (s.idx.val + 1 = 64 →
        h = compress s.h (bufferWords (s.buf.set s.idx.val byte s.idx.isLt)) ∧ buf = zeroBuffer ∧
          e = releasedEngine s.draw) := by
  have hi := s.idx.isLt
  by_cases h : s.idx.val + 1 = 64
  · refine ⟨_, _, 0, _, ?_, ?_, ?_, fun hn => absurd h hn, fun _ => ⟨rfl, rfl, rfl⟩⟩
    · rw [State.absorbByte_full s byte h, h]
      unfold State.compressBuf State.compressBlock State.releaseEngine State.storeByte
      rfl
    · simp [h]
    · intro _; rfl
  · refine ⟨_, _, s.idx + 1, _, ?_, ?_, fun hp => hp, fun _ => ⟨rfl, rfl, rfl⟩, fun hn => absurd hn h⟩
    · rw [State.absorbByte_part s byte h, show (s.idx.val + 1) / 64 = 0 by omega]
      unfold State.storeByte
      rfl
    · simp [Fin.val_add]

/-- Everything that finish does: the compressions of the one or two final blocks, BUF and IDX cleared and FLAG set by
the boundary decision; all else but the engine and the draw number is as before (R83). -/
theorem State.finishMessage_spec (s : State) :
    ∃ ms : List Block,
      ms = (if s.idx.val < 56 then [bufferWords (putLength (terminate s.buf s.idx.val) s.bitLength)]
        else [bufferWords (terminate s.buf s.idx.val), bufferWords (putLength zeroBuffer s.bitLength)]) ∧
      s.finishMessage = { s with
        h := compressAll s.h ms, buf := zeroBuffer, idx := 0, flag := paddingFlag s.idx.val,
        engine := releasedEngine (s.draw + ms.length - 1), draw := s.draw + ms.length } := by
  by_cases hi : s.idx.val < 56
  · refine ⟨_, (if_pos hi).symm, ?_⟩
    simp only [State.finishMessage, hi, if_true, paddingFlag]
    unfold State.compressBuf State.compressBlock State.releaseEngine
    rfl
  · refine ⟨_, (if_neg hi).symm, ?_⟩
    simp only [State.finishMessage, hi, if_false, paddingFlag]
    unfold State.compressBuf State.compressBlock State.releaseEngine
    rfl

/-- Compressing blocks one after another changes H, the engine and the draw number alone. -/
theorem State.foldl_compressBlock (bs : List Block) : ∀ s : State, bs ≠ [] →
    bs.foldl State.compressBlock s = { s with
      h := compressAll s.h bs, engine := releasedEngine (s.draw + bs.length - 1), draw := s.draw + bs.length } := by
  induction bs with
  | nil => intro s h; exact absurd rfl h
  | cons b bs ih =>
    intro s _
    by_cases h : bs = []
    · subst h
      simp only [List.foldl_cons, List.foldl_nil, compressAll]
      unfold State.compressBlock State.releaseEngine
      rfl
    · rw [List.foldl_cons, ih (s.compressBlock b) h]
      simp only [compressAll, List.foldl_cons, List.length_cons, State.compressBlock_h, State.compressBlock_draw]
      rw [show s.draw + 1 + bs.length = s.draw + (bs.length + 1) by omega]
      unfold State.compressBlock State.releaseEngine
      rfl

/-- Everything that a HASH_MEM performed does, but for its response (R87). -/
theorem State.hashMessage_spec (s : State) (n : Nat) :
    s.hashMessage n = { s with
      h := sha256 (s.message n), buf := zeroBuffer, idx := 0, len := BitVec.ofNat 64 n, flag := paddingFlag (n % 64),
      err := noErrors,
      engine := releasedEngine (s.draw + (blocksOf (padded (s.message n))).length - 1),
      draw := s.draw + (blocksOf (padded (s.message n))).length, msgEpoch := s.msgEpoch + 1 } := by
  unfold State.hashMessage State.hashBlocks
  rw [State.foldl_compressBlock _ _ (blocksOf_padded_ne_nil _)]
  rfl

/-- Equal states but for BUSY, RSP_PENDING, RSP_DATA and the sequencer position respond alike. -/
theorem State.respondStatus_congr {s t : State} (h1 : s.h = t.h) (h2 : s.buf = t.buf) (h3 : s.idx = t.idx)
    (h4 : s.len = t.len) (h5 : s.flag = t.flag) (h6 : s.err = t.err) (h7 : s.engine = t.engine)
    (h8 : s.msg = t.msg) (h9 : s.maW = t.maW) (h10 : s.events = t.events) (h11 : s.responses = t.responses)
    (h12 : s.draw = t.draw) (h13 : s.msgEpoch = t.msgEpoch)
    (h14 : s.offered = t.offered) : s.respondStatus = t.respondStatus := by
  cases s
  cases t
  simp only at h1 h2 h3 h4 h5 h6 h7 h8 h9 h10 h11 h12 h13 h14
  subst h1 h2 h3 h4 h5 h6 h7 h8 h9 h10 h11 h12 h13 h14
  rfl

end Sys2Proof.Machine
end

