-- ==== Sys2Proof/Laws/PerInstr.lean ====
section
/-! SUPPORT. One statement about every instruction: its word holds its opcode in bits 63:56 and its operand in bits
55:0, and the opcode is one of the seven defined ones (R53, R56). -/

namespace Sys2Proof.Laws.EncodesFields

/-- OP and the operand of the encoded word are the command's, and OP is 0x01 to 0x07. -/
def Statement (i : Instr) : Prop :=
  opcodeField (encode i) = opcodeOf i ∧ operandField (encode i) = operandOf i ∧
    1 ≤ (opcodeOf i).toNat ∧ (opcodeOf i).toNat ≤ 7

/-- The two fields of a word put together from an opcode and an operand. -/
theorem fields_of_encode (i : Instr) :
    opcodeField (encode i) = opcodeOf i ∧ operandField (encode i) = operandOf i := by
  have h := encode_toNat i
  have := (operandOf i).isLt
  constructor
  · apply BitVec.eq_of_toNat_eq
    rw [opcodeField_toNat, h]
    omega
  · apply BitVec.eq_of_toNat_eq
    rw [operandField_toNat, h]
    omega

theorem init : Statement .init :=
  ⟨(fields_of_encode _).1, (fields_of_encode _).2, by decide, by decide⟩

theorem absorb (byte : Byte) : Statement (.absorb byte) :=
  ⟨(fields_of_encode _).1, (fields_of_encode _).2, Nat.le_of_ble_eq_true rfl, Nat.le_of_ble_eq_true rfl⟩

theorem finish : Statement .finish :=
  ⟨(fields_of_encode _).1, (fields_of_encode _).2, by decide, by decide⟩

theorem hashMem (n : Nat) : Statement (.hashMem n) :=
  ⟨(fields_of_encode _).1, (fields_of_encode _).2, Nat.le_of_ble_eq_true rfl, Nat.le_of_ble_eq_true rfl⟩

theorem rdDigest (i : Fin 8) : Statement (.rdDigest i) :=
  ⟨(fields_of_encode _).1, (fields_of_encode _).2, Nat.le_of_ble_eq_true rfl, Nat.le_of_ble_eq_true rfl⟩

theorem rdStatus : Statement .rdStatus :=
  ⟨(fields_of_encode _).1, (fields_of_encode _).2, by decide, by decide⟩

theorem rdLen : Statement .rdLen :=
  ⟨(fields_of_encode _).1, (fields_of_encode _).2, by decide, by decide⟩

end Sys2Proof.Laws.EncodesFields
end

