-- ==== Sys2Proof/Laws/Run.lean ====
section
/-! SUPPORT. Sequences of commands (R45, R119). -/

namespace Sys2Proof.Machine

/-- Commands done one after another: the later ones start from where the earlier ones ended. -/
theorem execAll_append (is js : List Instr) : ∀ s t, execAll is s = .next t → execAll (is ++ js) s = execAll js t := by
  induction is with
  | nil =>
    intro s t h
    simp only [execAll] at h
    injection h with h
    rw [h, List.nil_append]
  | cons i is ih =>
    intro s t h
    simp only [List.cons_append, execAll] at h ⊢
    split <;> simp_all

/-- A run of `j` and then of `k` steps. -/
theorem runSteps_add (j k : Nat) (s t : State) (h : runSteps j s = .next t) : runSteps (j + k) s = runSteps k t := by
  induction j generalizing s with
  | zero =>
    rw [runSteps] at h
    injection h with h
    rw [h, Nat.zero_add]
  | succ j ih =>
    rw [show j + 1 + k = (j + k) + 1 by omega]
    rw [runSteps] at h ⊢
    split at h
    · rename_i u hu; exact ih u h
    · cases h
    · cases h

end Sys2Proof.Machine
end

