-- ==== Sys2Proof/Laws/Sequencer.lean ====
section
/-! SUPPORT. What a command word does, said once over all words, and what each kind of step of the block does. -/

namespace Sys2Proof.Machine

/-- What a command word can do: it is performed, it is answered without effect, or it raises an error. -/
theorem execWord_cases (w : Word64) (s : State) : ∃ t, execWord w s = .next t ∧
    ((decode w = .ok .init ∧ t = s.startMessage.respondStatus) ∨
      (∃ b, decode w = .ok (.absorb b) ∧ s.absorbCheck = .perform ∧ t = (s.absorbByte b).respondStatus) ∨
      (decode w = .ok .finish ∧ s.finishCheck = .perform ∧ t = s.finishMessage.respondStatus) ∨
      (∃ n, decode w = .ok (.hashMem n) ∧ n ≤ s.msgSize ∧ t = (s.hashMessage n).respondStatus) ∨
      (∃ i, decode w = .ok (.rdDigest i) ∧ t = s.respond ((s.h.get i).setWidth 64)) ∨
      (decode w = .ok .rdLen ∧ t = s.respond s.len) ∨
      ((t = s.respondStatus ∨ ∃ c, t = s.raise c) ∧ decode w ≠ .ok .init ∧ decode w ≠ .ok .rdLen ∧
        (∀ i, decode w ≠ .ok (.rdDigest i)) ∧ ∀ n, decode w = .ok (.hashMem n) → ¬n ≤ s.msgSize)) := by
  unfold execWord
  cases h : decode w with
  | error r => exact ⟨_, rfl, by simp⟩
  | ok i =>
    cases i with
    | init => exact ⟨_, rfl, by simp⟩
    | absorb b =>
      refine ⟨_, rfl, ?_⟩
      cases hc : s.absorbCheck <;> simp [State.guarded]
    | finish =>
      refine ⟨_, rfl, ?_⟩
      cases hc : s.finishCheck <;> simp [State.guarded]
    | hashMem n =>
      refine ⟨_, rfl, ?_⟩
      by_cases hn : n ≤ s.msgSize
      · rw [(State.hashCheck_perform s n).2 hn]
        simp [State.guarded, hn]
      · have : s.hashCheck n = .error .range := if_pos (Nat.not_le.1 hn)
        rw [this]
        simp only [State.guarded]
        simp only [Nat.not_le] at hn
        simp [hn]
    | rdDigest i => exact ⟨_, rfl, by simp⟩
    | rdStatus => exact ⟨_, rfl, by simp⟩
    | rdLen => exact ⟨_, rfl, by simp⟩

theorem State.ready_iff (s : State) : s.ready = true ↔ s.busy = false ∧ s.rspPending = false := by
  simp [State.ready]

/-- When the block requests a byte of MSG. -/
theorem State.msgRequest_some {s : State} {a : Nat} (h : s.msgRequest = some a) :
    ∃ n, s.pos = .readMsg n a ∧ s.busy = true ∧ s.engine.phase = .idle ∧ a < n := by
  unfold State.msgRequest at h
  split at h
  · rename_i n b hp
    split at h
    · rename_i hc
      injection h with h
      subst h
      exact ⟨n, hp, hc.1, hc.2.1, hc.2.2⟩
    · cases h
  · cases h

/-- No request at any other position of the sequencer. -/
theorem State.msgRequest_none {s : State} (h : ∀ n a, s.pos = .readMsg n a → ¬a < n) : s.msgRequest = none := by
  cases hr : s.msgRequest with
  | none => rfl
  | some a =>
    obtain ⟨n, hp, _, _, ha⟩ := State.msgRequest_some hr
    exact absurd ha (h n a hp)

/-- The engine's steps change H, the hidden engine state and the draw number alone. -/
theorem State.engineStep_frame (s : State) :
    ∃ h e d, s.engineStep = { s with h := h, engine := e, draw := d } := by
  unfold State.engineStep
  split
  · exact ⟨s.h, s.engine, s.draw, rfl⟩
  · exact ⟨s.h, _, s.draw, rfl⟩
  · exact ⟨s.h, _, s.draw, rfl⟩
  · exact ⟨_, _, _, rfl⟩

/-- The block's own step always gives a next state. -/
theorem State.workStep_next (s : State) : ∃ t, s.workStep = .next t := by
  have hx : ∀ w, ∃ t, execWord w s = .next t := fun w => (execWord_cases w s).imp fun _ h => h.1
  unfold State.workStep
  split
  · split
    · unfold State.framerStep
      split
      case h_2 w hw =>
        unfold State.beginCommand
        repeat' split
        all_goals first | exact ⟨_, rfl⟩ | exact hx _
      all_goals exact ⟨_, rfl⟩
    · exact ⟨_, rfl⟩
  · exact ⟨_, rfl⟩

/-- While the engine runs, settling is the engine's step. -/
theorem State.settle_engine (s : State) (hb : s.busy = true) (hp : s.rspPending = false)
    (he : s.engine.phase ≠ .idle) : s.settle = .next s.engineStep := by
  have hr : s.msgRequest = none := by
    cases h : s.msgRequest with
    | none => rfl
    | some a =>
      obtain ⟨n, _, _, hi, _⟩ := State.msgRequest_some h
      exact absurd hi he
  unfold State.settle
  rw [if_neg (by simp [hp]), if_neg (by simp [hr])]
  unfold State.workStep
  rw [if_pos hb, if_neg he]

/-- While the engine is IDLE and no byte is requested, settling is the framer's step. -/
theorem State.settle_framer (s : State) (hb : s.busy = true) (hp : s.rspPending = false)
    (he : s.engine.phase = .idle) (hr : s.msgRequest = none) : s.settle = s.framerStep := by
  unfold State.settle
  rw [if_neg (by simp [hp]), if_neg (by simp [hr])]
  unfold State.workStep
  rw [if_pos hb, if_pos he]

/-- Settling for `j` and then for `k` steps. -/
theorem State.settleFor_add (j k : Nat) (s t : State) (h : State.settleFor j s = .next t) :
    State.settleFor (j + k) s = State.settleFor k t := by
  induction j generalizing s with
  | zero =>
    rw [State.settleFor] at h
    injection h with h
    rw [h, Nat.zero_add]
  | succ j ih =>
    rw [show j + 1 + k = (j + k) + 1 by omega]
    rw [State.settleFor] at h ⊢
    split at h
    · rename_i u hu; exact ih u h
    · cases h
    · cases h

/-- One step of settling. -/
theorem State.settleFor_one (s t : State) (h : s.settle = .next t) : State.settleFor 1 s = .next t := by
  rw [State.settleFor, h]; rfl

/-- Handing BUF to the engine changes nothing that its compression depends on. -/
theorem State.startEngine_compressBuf (s : State) : s.startEngine.compressBuf = s.compressBuf := by
  unfold State.startEngine State.compressBuf State.compressBlock State.releaseEngine
  rfl

/-- The checks see nothing of the acceptance of the word. -/
theorem State.accept_checks (s : State) (w : Word64) :
    (s.accept w).absorbCheck = s.absorbCheck ∧ (s.accept w).finishCheck = s.finishCheck ∧
      (∀ n, (s.accept w).hashCheck n = s.hashCheck n) ∧ (s.accept w).status = s.status := by
  cases s
  exact ⟨rfl, rfl, fun _ => rfl, rfl⟩

/-- A response ends a command alike whether or not it was accepted at the ports. -/
theorem State.accept_respond (s : State) (w v : Word64) : (s.accept w).respond v = s.respond v := by
  cases s; rfl

theorem State.accept_respondStatus (s : State) (w : Word64) : (s.accept w).respondStatus = s.respondStatus := by
  cases s; rfl

theorem State.accept_raise (s : State) (w : Word64) (c : ErrorCause) : (s.accept w).raise c = s.raise c := by
  cases s; rfl

/-- What a host write can do: the address is none of MSG, it lies in the message of a HASH_MEM in progress or of one
that is presented, or the byte is written. -/
theorem State.hostWrite_cases (s : State) (a : Nat) (b : Byte) :
    (s.msgSize ≤ a ∧ s.hostWrite a b = .fault .msgAddressOutside) ∨
      ((∃ n, s.hashInProgress = some n ∧ a < n) ∧ s.hostWrite a b = .refused .msgWriteDuringHash) ∨
      ((∃ n, s.hashOffered = some n ∧ a < n) ∧ s.hostWrite a b = .refused .msgWriteAfterOffer) ∨
      (a < s.msgSize ∧ (∀ n, s.hashInProgress = some n → n ≤ a) ∧ (∀ n, s.hashOffered = some n → n ≤ a) ∧
        s.hostWrite a b = .next { s with msg := Memory.write s.msg a b }) := by
  unfold State.hostWrite inMessage
  cases s.hashInProgress <;> cases s.hashOffered <;> simp <;> grind

/-- No word waits after an edge at which none is presented or the one presented is accepted. -/
theorem State.present_accepted (s : State) (p : PortIn)
    (h : p.cmdValid = false ∨ (s.portOut p.rst).cmdReady = true) : s.present p = { s with offered := none } := by
  unfold State.present
  rcases h with h | h <;> simp [h]

end Sys2Proof.Machine
end

