-- ==== Sys2Proof/Tests/Slice0.lean ====
section
/-! SUPPORT. Tests whose expected results are the spec's own (95_test_vectors.md, and the examples of its rules), and
for every obligation with hypotheses a witness that meets them all. -/

namespace Sys2Proof.Tests

open Sys2Proof.Machine

/-! ### States for the tests -/

/-- The state after `k` ABSORBs of 0x61 (`k` at most 63), from reset. -/
def openState (k : Fin 64) : State :=
  { State.reset with
    buf := Vector.ofFn fun j => if j.val < k.val then 0x61 else 0
    idx := k
    len := BitVec.ofNat 64 k.val }

/-- Reset with MSG = "abc" (start state of program P4, but for the zeros above). -/
def abcState : State := { State.reset with msg := [(0, 0x61), (1, 0x62), (2, 0x63)] }

/-- A closed message of no bytes: the state after FINISH from reset, but for H and the engine. -/
def closedState : State := { State.reset with flag := .padFits }

/-- Reset with ERR_SEQ set and the message closed. -/
def seqErrorState : State := { closedState with err := ⟨false, true, false, false⟩ }

/-- LEN = LEN_MAX, where IDX is 63 (95_test_vectors.md section 5.5). -/
def fullState : State := { openState 63 with len := 0x1fffffffffffffff }

/-- HASH_MEM 3 is in progress and has read nothing yet. -/
def readingState : State := { abcState with busy := true, pos := .readMsg 3 0 }

/-- HASH_MEM 3 is presented while a response still waits: it is not accepted yet. -/
def presentedState : State :=
  { abcState with rspPending := true, offered := some 0x0400000000000003 }

/-- A response waits for the host. -/
def pendingState : State := { State.reset with rspPending := true, rspData := 5 }

/-- The next state of a result. -/
def stateOf : Result → Option State
  | .next s => some s
  | .fault _ => none
  | .refused _ => none

/-- The response that a command word gets. -/
def responseOf (word : Word64) (s : State) : Option Word64 := (stateOf (execWord word s)).map State.rspData

/-! ### Well-formedness -/

theorem test_hashMem_count_of_57_bits_is_ill_formed :
    (Instr.hashMem (2 ^ 56)).wellFormed = false ∧ (Instr.hashMem (2 ^ 56 - 1)).wellFormed = true := by decide

theorem test_operands_out_of_range_do_not_assemble :
    [AsmLine.absorb 256, .hashMem (2 ^ 56), .rdDigest 8, .word (2 ^ 64), .absorbBytes [0, 256],
      .hashBytes [256]].map assemble = List.replicate 6 none := by decide

/-! ### Decoding: words written out bit by bit from R56 -/

theorem test_decode_init :
    decode 0b0000000100000000000000000000000000000000000000000000000000000000 = .ok .init := by decide

theorem test_decode_absorb :
    decode 0b0000001000000000000000000000000000000000000000000000000010100101 = .ok (.absorb 0xa5) := by decide

theorem test_decode_finish :
    decode 0b0000001100000000000000000000000000000000000000000000000000000000 = .ok .finish := by decide

theorem test_decode_hashMem :
    decode 0b0000010010000000000000000000000000000000000000000000000000000001 = .ok (.hashMem (2 ^ 55 + 1)) := by
  decide

theorem test_decode_rdDigest :
    decode 0b0000010100000000000000000000000000000000000000000000000000000110 = .ok (.rdDigest 6) := by decide

theorem test_decode_rdStatus :
    decode 0b0000011000000000000000000000000000000000000000000000000000000000 = .ok .rdStatus := by decide

theorem test_decode_rdLen :
    decode 0b0000011100000000000000000000000000000000000000000000000000000000 = .ok .rdLen := by decide

/-- The reserved opcodes at the edges of their ranges (R58). -/
theorem test_decode_reserved_opcodes :
    [0x0000000000000000, 0x0800000000000000, 0xff00000000000000].map decode =
      List.replicate 3 (.error .reservedOpcode) := by decide

/-- A single "must be 0" bit, the lowest or the highest of each format (R59). -/
theorem test_decode_operand_bits :
    [0x0100000000000001, 0x0180000000000000, 0x0200000000000100, 0x0280000000000000, 0x0300000000000001,
      0x0500000000000008, 0x0580000000000000, 0x0600000000000001, 0x0700000000000100].map decode =
      List.replicate 9 (.error .operandBitSet) := by decide

/-- The worked encodings of R62. -/
theorem test_encode_worked :
    encode (.absorb 0x61) = 0x0200000000000061 ∧ encode (.hashMem 3) = 0x0400000000000003 ∧
      encode (.rdDigest 7) = 0x0500000000000007 := by decide

theorem test_table_word_reaches_the_decoder :
    decodeTableWord 64 0x0400000000000010 = some (.hashMem 16) ∧ decodeTableWord 64 0x0800000000000000 = none := by
  decide

/-! ### Assembler (R61, R62) -/

theorem test_assemble_character_literal :
    assembleText ("absorb 'a' ; a comment").toList = some [0x0200000000000061] := by decide +kernel

theorem test_assemble_bytes_and_string :
    assembleText "ABSORB_BYTES 0x61, 98".toList = some [0x0200000000000061, 0x0200000000000062] ∧
      assembleText "HASH_BYTES \"a\"".toList =
        some [0x0100000000000000, 0x0200000000000061, 0x0300000000000000] := by decide +kernel

/-! ### The compressor (95_test_vectors.md sections 3, 4 and 5.2; the examples of R63 to R76) -/

theorem test_rotr : rotr 0x12345678 7 = 0xf02468ac ∧ rotr 0x00000001 7 = 0x02000000 := by decide

theorem test_shr : shr 0x12345678 3 = 0x02468acf ∧ shr 0xffffffff 3 = 0x1fffffff := by decide

theorem test_ch_maj :
    ch 0xf0f0f0f0 0xaaaaaaaa 0x55555555 = 0xa5a5a5a5 ∧ maj 0x12345678 0x9abcdef0 0x0fedcba9 = 0x1abcdef8 := by decide

theorem test_sigmas :
    bsig0 0x12345678 = 0x66146474 ∧ bsig1 0x12345678 = 0x3561abda ∧ ssig0 0x12345678 = 0xe7fce6ee ∧
      ssig1 0x12345678 = 0xa1f78649 := by decide

/-- The block of the message "abc" (95_test_vectors.md section 3). -/
def abcBlock : Block := blockAt (padded [0x61, 0x62, 0x63]) 0

theorem test_abc_block :
    abcBlock = #v[0x61626380, 0, 0, 0, 0, 0, 0, 0, 0, 0, 0, 0, 0, 0, 0, 0x00000018] := by decide

theorem test_expand_abc :
    ((expand abcBlock)[16], (expand abcBlock)[17], (expand abcBlock)[63]) =
      (0x61626380, 0x000f0000, 0x12b1edeb) := by decide +kernel

/-- Round 0 of "abc" (the example of R75). -/
theorem test_round_zero :
    compressionRound 0 iv 0x61626380 =
      ⟨0x5d6aebcd, 0x6a09e667, 0xbb67ae85, 0x3c6ef372, 0xfa2a4622, 0x510e527f, 0x9b05688c, 0x1f83d9ab⟩ := by
  decide

/-- The source's digest of "abc" (S2). -/
theorem test_compress_abc :
    compress iv abcBlock =
      ⟨0xba7816bf, 0x8f01cfea, 0x414140de, 0x5dae2223, 0xb00361a3, 0x96177a9c, 0xb410ff61, 0xf20015ad⟩ := by
  decide +kernel

/-- The rows N = 55, 56 and 120 of 95_test_vectors.md section 2. -/
theorem test_padding_counts :
    [55, 56, 120].map (fun n => (padZeros n, blockCount n)) = [(0, 1), (63, 2), (63, 3)] := by decide

/-! ### The commands (95_test_vectors.md sections 5.4 to 5.6) -/

theorem test_init_clears_the_errors :
    (stateOf (exec .init seqErrorState)).map (fun t => (t.err, t.flag, t.rspData)) =
      some (⟨false, false, false, false⟩, .streaming, 0) := by decide

theorem test_init_discards_the_message :
    (stateOf (exec .init (openState 5))).map (fun t => (t.idx, t.len, t.buf[0])) = some (0, 0, 0) := by decide

theorem test_absorb_after_62 :
    (stateOf (exec (.absorb 0xff) (openState 62))).map (fun t => (t.rspData, t.len, t.buf[62])) =
      some (0x1f8, 63, 0xff) := by decide

theorem test_absorb_completes_a_block :
    (stateOf (exec (.absorb 0x61) (openState 63))).map (fun t => (t.rspData, t.len, t.h)) =
      some (0, 64, ⟨0xdf5bb81c, 0xe81e0626, 0xfb45a894, 0x4fd40f31, 0xb25e6816, 0xd6d499c1, 0xab904929,
        0x00635e66⟩) := by decide +kernel

theorem test_finish_55_bytes_fits :
    (stateOf (exec .finish (openState 55))).map (fun t => (t.rspData, t.h.a, t.h.h)) =
      some (3, 0x9f4390f8, 0x0f734318) := by decide +kernel

theorem test_finish_56_bytes_spills :
    (stateOf (exec .finish (openState 56))).map (fun t => (t.rspData, t.h.a, t.h.h)) =
      some (5, 0xb35439a4, 0x6ec6738a) := by decide +kernel

theorem test_hashMem_abc :
    (stateOf (exec (.hashMem 3) abcState)).map (fun t => (t.rspData, t.h.a, t.h.h, t.len)) =
      some (3, 0xba7816bf, 0xf20015ad, 3) := by decide +kernel

theorem test_hashMem_17_is_out_of_range :
    (stateOf (exec (.hashMem 17) State.reset)).map (fun t => (t.rspData, t.h, t.len)) =
      some (0x80000, iv, 0) := by decide

theorem test_rdDigest_seven : responseOf 0x0500000000000007 State.reset = some 0x5be0cd19 := by decide

theorem test_rdDigest_eight_is_illegal : responseOf 0x0500000000000008 State.reset = some 0x10000 := by
  decide

theorem test_rdStatus_after_three : responseOf 0x0600000000000000 (openState 3) = some 0x18 := by decide

theorem test_rdStatus_keeps_the_error :
    (stateOf (execWord 0x0600000000000000 seqErrorState)).map (fun t => (t.rspData, t.err.seq)) =
      some (0x20003, true) := by decide

theorem test_rdLen_counts_bytes : responseOf 0x0700000000000000 (openState 63) = some 63 := by decide

theorem test_rdLen_with_operand_is_illegal : responseOf 0x0700000000000100 State.reset = some 0x10000 := by
  decide

/-- Priority: the gate before the sequence check (step 3 before 4 of R100). -/
theorem test_gate_before_sequence_check :
    responseOf 0x0200000000000061 { closedState with err := ⟨true, false, false, false⟩ } = some 0x10003 := by
  decide

theorem test_absorb_at_full_length : responseOf 0x0200000000000000 fullState = some 0x401f8 := by decide

theorem test_absorb_to_full_length :
    responseOf 0x0200000000000000 { openState 62 with len := 0x1ffffffffffffffe } = some 0x1f8 := by decide

/-! ### Ports and steps -/

/-- A reset wins over an offered command (R100). -/
theorem test_reset_wins_over_a_command :
    (stateOf ((openState 5).clockEdge ⟨true, true, 0x0200000000000061, false, false⟩)).map
      (fun t => (t.busy, t.idx, t.h)) = some (false, 0, iv) := by decide

/-- A response that is not taken stays (R52). -/
theorem test_response_waits :
    (stateOf (pendingState.clockEdge ⟨false, true, 0x0100000000000000, false, false⟩)).map
      (fun t => (t.rspPending, t.busy, t.rspData)) = some (true, false, 5) := by decide

/-- The first byte that HASH_MEM takes is MSG[0] (R44). -/
theorem test_memory_reply_takes_the_byte :
    (stateOf readingState.memReply).map (fun t => (t.buf[0], t.idx, t.pos)) = some (0x61, 1, .readMsg 3 1) := by
  decide

/-- msg_ack = 1 while the block requests nothing changes nothing (log entry 18). -/
theorem test_unasked_acknowledgement_is_ignored :
    ({ readingState with pos := .finalLast (some 3) } : State).msgRequest = none ∧
      (stateOf (({ readingState with pos := .finalLast (some 3) } : State).clockEdge ⟨false, false, 0, false, true⟩)).map
        (fun t => (t.pos, t.busy, t.idx)) = some (.finalLast (some 3), true, 0) := by decide

/-- Step runs the word placed where it takes its next command, and the host has the response. -/
theorem test_step_runs_the_placed_word :
    (stateOf (step (State.reset.withFetchWord 64 0x0500000000000000))).map (fun t => (t.responses, t.ready)) =
      some ([0x6a09e667], true) := by decide

/-- A word that an edge shows while the block is not ready waits, and is gone when the next edge shows none (R113). -/
theorem test_presented_word_waits :
    (stateOf (pendingState.clockEdge ⟨false, true, 0x0400000000000003, true, false⟩)).map State.hashOffered =
        some (some 3) ∧
      (stateOf (presentedState.clockEdge ⟨false, false, 0, false, false⟩)).map State.hashOffered = some none := by
  decide

/-- An accepted HASH_MEM is in progress and waits no longer (R51). -/
theorem test_accepted_word_is_in_progress :
    (stateOf (({ presentedState with rspPending := false } : State).clockEdge
        ⟨false, true, 0x0400000000000003, false, false⟩)).map (fun t => (t.hashOffered, t.hashInProgress)) =
      some (none, some 3) := by decide

/-- A run shows its own responses and not those taken before it (R119). -/
theorem test_observation_shows_the_run_alone :
    (stateOf (step ({ State.reset with responses := [5] }.withFetchWord 64 0x0700000000000000))).map
      (fun t => (t.responses, (t.observe 1).responses)) = some ([5, 0], [0]) := by decide

/-- Under reset no address is shown although a HASH_MEM waits for a byte. -/
theorem test_reset_shows_no_address :
    ((({ readingState with pos := .readMsg 3 2 } : State).portOut false).msgAddr,
      (({ readingState with pos := .readMsg 3 2 } : State).portOut true).msgAddr) = (2, 0) := by decide

/-- K[0], K[8] and K[63] (R72). -/
theorem test_round_constants :
    (roundConstant 0, roundConstant 8, roundConstant 63) = (0x428a2f98, 0xd807aa98, 0xc67178f2) := by decide

/-- MSG is readable after a host write, and a second write of the same address leaves one entry (R33). -/
theorem test_host_write_in_order :
    Memory.write (Memory.write (Memory.write [] 3 1) 1 2) 3 5 = [(1, 2), (3, 5)] := by decide

/-! ### Witnesses: each obligation with hypotheses has a state and operands that meet them -/

theorem test_witness_decode_of_encode :
    (Instr.hashMem 0).wellFormed = true ∧ (Instr.hashMem (2 ^ 56 - 1)).wellFormed = true ∧
      (Instr.rdDigest 7).wellFormed = true := by decide

theorem test_witness_decoded_word : decode 0x04ffffffffffffff = .ok (.hashMem (2 ^ 56 - 1)) := by decide

theorem test_witness_table_rows :
    (∃ i, decode 0x0500000000000007 = .ok i) ∧ rowMatches opcodeRows[4] 0x0500000000000007 = true :=
  ⟨⟨.rdDigest 7, by decide⟩, by decide⟩

theorem test_witness_reserved_opcodes :
    opcodeField 0x00ffffffffffffff = 0 ∧ 8 ≤ (opcodeField 0x0800000000000000).toNat ∧
      8 ≤ (opcodeField 0xff00000000000000).toNat := by decide

theorem test_witness_operand_bits :
    (opcodeField 0x0100000000000001 = 1 ∧ (operandField 0x0100000000000001).toNat ≠ 0) ∧
      (opcodeField 0x0380000000000000 = 3 ∧ (operandField 0x0380000000000000).toNat ≠ 0) ∧
      (opcodeField 0x0600000000000001 = 6 ∧ (operandField 0x0600000000000001).toNat ≠ 0) ∧
      (opcodeField 0x0700000000000001 = 7 ∧ (operandField 0x0700000000000001).toNat ≠ 0) ∧
      (opcodeField 0x0200000000000100 = 2 ∧ 2 ^ 8 ≤ (operandField 0x0200000000000100).toNat) ∧
      (opcodeField 0x0500000000000008 = 5 ∧ 2 ^ 3 ≤ (operandField 0x0500000000000008).toNat) := by decide

theorem test_witness_assembled_line :
    assemble (.hashMem (2 ^ 56 - 1)) = some [0x04ffffffffffffff] ∧
      (∀ n, AsmLine.hashMem (2 ^ 56 - 1) ≠ .word n) ∧ 0x04ffffffffffffff ∈ [(0x04ffffffffffffff : Word64)] :=
  ⟨by decide, (fun _ h => by cases h), by simp⟩

theorem test_witness_rotr : 0 < 1 ∧ 1 < 32 ∧ 0 < 31 ∧ 31 < 32 := by decide

theorem test_witness_expand : 15 < 16 ∧ 16 ≤ 16 ∧ 16 ≤ 63 ∧ 63 < 64 := by decide

theorem test_witness_engine_phases : (openState 63).startEngine.engine.phase = .load := by decide

theorem test_witness_padded_length : ([] : List Byte).length ≤ 2 ^ 61 - 1 := by decide

theorem test_witness_reset_edge : (⟨true, true, 0, true, true⟩ : PortIn).rst = true := rfl

theorem test_witness_init_leaves_the_reset_state :
    (openState 5).engine.phase = .idle ∧ ∃ t, exec .init (openState 5) = .next t := ⟨rfl, _, rfl⟩

/-- Both ends of the range of IDX in AbsorbStoresTheByte. -/
theorem test_witness_absorb_stores :
    ((openState 0).err = ⟨false, false, false, false⟩ ∧ (openState 0).flag = .streaming ∧
      (openState 0).len ≠ Config.lenMax ∧ (openState 0).idx.val < 63) ∧
    ((openState 62).err = ⟨false, false, false, false⟩ ∧ (openState 62).flag = .streaming ∧
      (openState 62).len ≠ Config.lenMax ∧ (openState 62).idx.val < 63) := by decide

theorem test_witness_absorb_compresses :
    (openState 63).err = ⟨false, false, false, false⟩ ∧ (openState 63).flag = .streaming ∧
      (openState 63).len ≠ Config.lenMax ∧ (openState 63).idx.val = 63 := by decide

theorem test_witness_finish_one_block :
    (openState 55).err = ⟨false, false, false, false⟩ ∧ (openState 55).flag = .streaming ∧
      (openState 55).idx.val < 56 := by decide

theorem test_witness_finish_two_blocks :
    (openState 56).err = ⟨false, false, false, false⟩ ∧ (openState 56).flag = .streaming ∧
      56 ≤ (openState 56).idx.val := by decide

theorem test_witness_hashMem_ranges :
    0 ≤ 2 ^ State.reset.maW.val ∧ 16 ≤ 2 ^ State.reset.maW.val ∧ 2 ^ State.reset.maW.val < 17 := by decide

theorem test_witness_hashMem_reads_only :
    3 ≤ 2 ^ abcState.maW.val ∧
      3 ≤ 2 ^ ({ abcState with msg := abcState.msg ++ [(3, 0xff)], len := 9 } : State).maW.val ∧
      (∀ a, a < 3 →
        abcState.memRead a = ({ abcState with msg := abcState.msg ++ [(3, 0xff)], len := 9 } : State).memRead a) ∧
      (∃ t, exec (.hashMem 3) abcState = .next t) ∧
      ∃ t, exec (.hashMem 3) { abcState with msg := abcState.msg ++ [(3, 0xff)], len := 9 } = .next t := by
  refine ⟨by decide, by decide, ?_, ⟨_, rfl⟩, _, rfl⟩
  intro a ha
  rcases (by omega : a = 0 ∨ a = 1 ∨ a = 2) with rfl | rfl | rfl <;> rfl

theorem test_witness_gated : seqErrorState.err ≠ ⟨false, false, false, false⟩ := by decide

theorem test_witness_closed_message :
    closedState.err = ⟨false, false, false, false⟩ ∧ closedState.flag ≠ .streaming := by decide

theorem test_witness_full_length :
    fullState.err = ⟨false, false, false, false⟩ ∧ fullState.flag = .streaming ∧
      fullState.len.toNat = 2 ^ 61 - 1 := by decide

theorem test_witness_errors_are_precise :
    ∃ t, execWord 0 State.reset = .next t ∧ t.err ≠ State.reset.err ∧ t.err ≠ ⟨false, false, false, false⟩ :=
  ⟨State.reset.raise .cmd, rfl, by decide, by decide⟩

/-- Each clause of the order of the checks, and a word that passes them all. -/
theorem test_witness_checks_in_order :
    decode 0 = .error .reservedOpcode ∧
      (decode 0x0400000000000011 = .ok (.hashMem 17) ∧ 2 ^ State.reset.maW.val < 17) ∧
      (decode 0x0300000000000000 = .ok .finish ∧ seqErrorState.err ≠ ⟨false, false, false, false⟩) ∧
      (closedState.err = ⟨false, false, false, false⟩ ∧ closedState.flag ≠ .streaming) ∧
      (decode 0x0200000000000061 = .ok (.absorb 0x61) ∧ fullState.err = ⟨false, false, false, false⟩ ∧
        fullState.flag = .streaming ∧ fullState.len.toNat = 2 ^ 61 - 1) ∧
      ((openState 62).err = ⟨false, false, false, false⟩ ∧ (openState 62).flag = .streaming ∧
        (openState 62).len.toNat ≠ 2 ^ 61 - 1) := by decide

/-- A word that clears an error bit, by each of the two commands that do. -/
theorem test_witness_errors_are_cleared :
    (decode 0x0100000000000000 = .ok .init ∧ ∃ t, execWord 0x0100000000000000 seqErrorState = .next t ∧
      (seqErrorState.err.seq && !t.err.seq) = true) ∧
    (decode 0x0400000000000000 = .ok (.hashMem 0) ∧ 0 ≤ 2 ^ seqErrorState.maW.val ∧
      ∃ t, execWord 0x0400000000000000 seqErrorState = .next t ∧
        (seqErrorState.err.seq && !t.err.seq) = true) :=
  ⟨⟨by decide, _, rfl, rfl⟩, by decide, by decide, _, rfl, by decide⟩

/-- Each of the four ways to write H does change it somewhere. -/
theorem test_witness_digest_state_written :
    (∃ t, execWord 0x0100000000000000 { State.reset with h := ⟨0, 0, 0, 0, 0, 0, 0, 0⟩ } = .next t ∧
      t.h ≠ ⟨0, 0, 0, 0, 0, 0, 0, 0⟩) ∧
    (∃ t, execWord 0x0400000000000000 State.reset = .next t ∧ t.h ≠ State.reset.h) ∧
    (∃ t, execWord 0x0200000000000061 (openState 63) = .next t ∧ t.h ≠ (openState 63).h) ∧
    (∃ t, execWord 0x0300000000000000 State.reset = .next t ∧ t.h ≠ State.reset.h) :=
  ⟨⟨_, rfl, by decide⟩, ⟨_, rfl, by decide +kernel⟩, ⟨_, rfl, by decide +kernel⟩,
    ⟨_, rfl, by decide +kernel⟩⟩

theorem test_witness_execWord_answers : ∃ t, execWord 0x0200000000000061 State.reset = .next t := ⟨_, rfl⟩

/-- An open message: none of its bytes absorbed yet, and a partial block. -/
theorem test_witness_absorbed :
    (State.reset.Absorbed [] ∧ ([] : List Byte).length < 2 ^ 61 - 1) ∧
      (openState 3).Absorbed [0x61, 0x61, 0x61] := by
  refine ⟨⟨?_, by decide⟩, ?_⟩
  · exact ⟨by decide, rfl, rfl, rfl, rfl, by decide, by decide⟩
  · exact ⟨by decide, rfl, rfl, rfl, rfl, by decide, by decide⟩

theorem test_witness_message_length : ([0x61] : List Byte).length ≤ 2 ^ 61 - 1 := by decide

/-- The first and the last address of MSG, and the first one above the messages of two HASH_MEMs. -/
theorem test_witness_host_write :
    (0 < 2 ^ abcState.maW.val ∧ 15 < 2 ^ abcState.maW.val ∧ abcState.MemoryOk ∧ abcState.hashInProgress = none ∧
      abcState.hashOffered = none) ∧
    (presentedState.hashOffered = some 3 ∧ readingState.hashInProgress = some 3 ∧ 3 < 2 ^ abcState.maW.val) :=
  ⟨⟨by decide, by decide, ⟨rfl, rfl⟩, rfl, rfl⟩, rfl, rfl, by decide⟩

/-- A HASH_MEM in progress, and the addresses on both sides of its N. -/
theorem test_witness_write_under_hashMem :
    readingState.hashInProgress = some 3 ∧ 2 < 2 ^ readingState.maW.val ∧ 3 < 2 ^ readingState.maW.val ∧
      readingState.hostWrite 2 0 = .refused .msgWriteDuringHash ∧ readingState.hashOffered = none ∧
      ∃ t, readingState.hostWrite 3 0 = .next t :=
  ⟨rfl, by decide, by decide, rfl, rfl, _, rfl⟩

/-- A HASH_MEM that waits for its acceptance, and the addresses on both sides of its N. -/
theorem test_witness_write_after_hashMem_is_presented :
    presentedState.offered = some 0x0400000000000003 ∧ decode 0x0400000000000003 = .ok (.hashMem 3) ∧
      presentedState.hashInProgress = none ∧
      presentedState.hostWrite 2 0 = .refused .msgWriteAfterOffer ∧
      ∃ t, presentedState.hostWrite 3 0 = .next t :=
  ⟨rfl, by decide, rfl, rfl, _, rfl⟩

/-- A step under each of the two, the host's write above the message among them. -/
theorem test_witness_message_is_stable :
    (presentedState.MemoryOk ∧ presentedState.hashOffered = some 3 ∧
      ∃ t, step { presentedState with events := [.writeMsg 3 0] } = .next t) ∧
    (readingState.MemoryOk ∧ readingState.hashInProgress = some 3 ∧ ∃ t, step readingState = .next t) :=
  ⟨⟨⟨rfl, rfl⟩, rfl, _, rfl⟩, ⟨rfl, rfl⟩, rfl, _, rfl⟩

/-- An edge at which a word waits, one that accepts it, and one that shows none. -/
theorem test_witness_presented_word :
    (∃ t, pendingState.clockEdge ⟨false, true, 0, false, false⟩ = .next t) ∧
      (pendingState.portOut false).cmdReady = false ∧
      (∃ t, State.reset.clockEdge ⟨false, true, 0, false, false⟩ = .next t) ∧
      (State.reset.portOut false).cmdReady = true ∧
      ∃ t, State.reset.clockEdge ⟨false, false, 0, false, false⟩ = .next t := ⟨⟨_, rfl⟩, rfl, ⟨_, rfl⟩, rfl, _, rfl⟩

theorem test_witness_step_gives_a_next_state :
    (∃ t, step { abcState with events := [.writeMsg 3 0] } = .next t) ∧
      ∃ t, step { abcState with events := [.work] } = .next t := ⟨⟨_, rfl⟩, _, rfl⟩

theorem test_witness_command_transfer :
    (State.reset.portOut false).cmdReady = true ∧ (⟨false, true, 0, false, false⟩ : PortIn).cmdValid = true ∧
      (⟨false, false, 0, false, false⟩ : PortIn).cmdValid = false ∧
      ∃ t, State.reset.clockEdge ⟨false, true, 0, false, false⟩ = .next t ∧ State.reset.busy = false ∧
        t.busy = true := ⟨rfl, rfl, rfl, _, rfl, rfl, rfl⟩

theorem test_witness_response_transfer :
    pendingState.rspPending = true ∧ (⟨false, false, 0, false, false⟩ : PortIn).rst = false ∧
      (⟨false, false, 0, false, false⟩ : PortIn).rspReady = false ∧
      (⟨false, false, 0, true, false⟩ : PortIn).rst = false ∧
      (⟨false, false, 0, true, false⟩ : PortIn).rspReady = true := ⟨rfl, rfl, rfl, rfl, rfl⟩

/-- An edge that takes the response, and one at which a HASH_MEM takes a byte. -/
theorem test_witness_response_word_stays :
    (⟨false, false, 0, true, true⟩ : PortIn).rst = false ∧
      (∃ t, pendingState.clockEdge ⟨false, false, 0, true, true⟩ = .next t) ∧
      ∃ t, readingState.clockEdge ⟨false, false, 0, true, true⟩ = .next t := ⟨rfl, ⟨_, rfl⟩, _, rfl⟩

theorem test_witness_sequencer : abcState.ready = true ∧ abcState.engine.phase = .idle := ⟨rfl, rfl⟩

/-- A word that decodes and a word that does not. -/
theorem test_witness_step_runs_the_command :
    (({ State.reset with events := [.transact 0x0600000000000000] } : State).ready = true ∧
      decode 0x0600000000000000 = .ok .rdStatus ∧
      ∃ t, exec .rdStatus { State.reset with events := [], offered := none } = .next t) ∧
    (({ State.reset with events := [.transact 0] } : State).ready = true ∧ decode 0 = .error .reservedOpcode) :=
  ⟨⟨rfl, by decide, _, rfl⟩, rfl, by decide⟩

theorem test_witness_run : State.reset.ready = true ∧ State.reset.events = [] := ⟨rfl, rfl⟩

/-- An open message with a partial block, a closed one, and a word that each answers. -/
theorem test_witness_framed :
    ((openState 3).Framed ∧ ∃ t, execWord 0x0200000000000061 (openState 3) = .next t) ∧
      ({ closedState with h := sha256 [] } : State).Framed ∧
      ∃ t, execWord 0x0300000000000000 { closedState with h := sha256 [] } = .next t := by
  refine ⟨⟨⟨[0x61, 0x61, 0x61], by decide, rfl, fun _ => ⟨rfl, by decide, by decide +kernel⟩, fun h => absurd rfl h,
    by decide⟩, _, rfl⟩, ⟨[], by decide, rfl, (fun h => by cases h), fun _ => ⟨rfl, rfl⟩, by decide⟩, _, rfl⟩

/-- The invariant holds between commands, and while HASH_MEM reads. -/
theorem test_witness_invariant :
    (openState 5).Inv ∧ readingState.Inv ∧ (∃ t, step (openState 5) = .next t) ∧
      ∃ t, step readingState = .next t := by
  refine ⟨?_, ?_, ⟨_, rfl⟩, _, rfl⟩
  · exact ⟨by decide, ⟨rfl, rfl⟩, by decide, by decide, rfl, by decide⟩
  · exact ⟨by decide, ⟨rfl, rfl⟩, by decide, by decide,
      by decide, by decide⟩

/-- The three stops of a host write, from states that meet the invariant. -/
theorem test_witness_host_write_stops :
    step { openState 5 with events := [.writeMsg 16 0] } = .fault .msgAddressOutside ∧
      step { readingState with events := [.writeMsg 2 0] } = .refused .msgWriteDuringHash ∧
      presentedState.Inv ∧
      step { presentedState with events := [.writeMsg 2 0] } = .refused .msgWriteAfterOffer := by
  refine ⟨rfl, rfl, ?_, rfl⟩
  exact ⟨by decide, ⟨rfl, rfl⟩, by decide, by decide, rfl, by decide⟩

end Sys2Proof.Tests
end

/-! PROOFS. The engine's 66 phase steps are one compression (R73 to R78). -/

namespace Sys2Proof.Machine

/-! ### The engine's phases -/

/-- What the engine holds when `k` rounds of the compression of `m` into `h` are done (R75, R78): the round counter, the
phase, the working variables, and in W the words formed so far, those of the block among them. -/
structure Engine.AfterRounds (e : Engine) (h : Words8) (m : Block) (k : Nat) : Prop where
  counter : e.t.toNat = k
  phase : e.phase = if k < 64 then .round else .add
  vars : e.vars = roundsFrom k 0 (expand m) h
  words : ∀ j, j < 16 ∨ j < k → e.w.getD j 0 = (expand m).getD j 0

theorem expand_getD_block (m : Block) (j : Nat) (hj : j < 16) : (expand m).getD j 0 = m[j] := by
  rw [expand, expandFrom_below _ _ _ _ hj, loadSchedule_getD _ _ _ hj]

theorem expand_getD_scheduleWord (m : Block) (j : Nat) (h16 : 16 ≤ j) (h64 : j < 64) :
    (expand m).getD j 0 = scheduleWord (expand m) j :=
  expandFrom_recurrence 48 16 _ j (by omega) (by omega) h16 (by omega)

/-- LOAD leads to the state before round 0. -/
theorem engineLoad_afterRounds (h : Words8) (buf : Buffer) (e : Engine) :
    (engineLoad h buf e).AfterRounds h (bufferWords buf) 0 where
  counter := rfl
  phase := rfl
  vars := rfl
  words j hj := by
    have hj : j < 16 := by omega
    rw [expand_getD_block _ _ hj]
    exact loadSchedule_getD _ _ _ hj

/-- The word formed in round `k` is word `k` of the schedule, and the words before it stay. -/
theorem Engine.AfterRounds.formWord {e : Engine} {h : Words8} {m : Block} {k : Nat} (he : e.AfterRounds h m k)
    (hk : k < 64) (j : Nat) (hj : j < 16 ∨ j < k + 1) : (formWord e.w k).getD j 0 = (expand m).getD j 0 := by
  unfold Machine.formWord
  by_cases h16 : k < 16
  · rw [if_pos h16]
    exact he.words j (by omega)
  · rw [if_neg h16]
    by_cases hjk : j = k
    · subst hjk
      rw [vector_getD_set_self _ _ _ hk, expand_getD_scheduleWord _ _ (by omega) hk]
      exact scheduleWord_congr _ _ _ (by omega) fun i hi => he.words i (.inr hi)
    · rw [vector_getD_set_ne _ _ _ _ (Ne.symm hjk)]
      exact he.words j (by omega)

/-- A ROUND step does one round more. -/
theorem Engine.AfterRounds.engineRound {e : Engine} {h : Words8} {m : Block} {k : Nat} (he : e.AfterRounds h m k)
    (hk : k < 64) : (engineRound e).AfterRounds h m (k + 1) := by
  have ht := he.counter
  obtain ⟨hcounter, hphase⟩ := engineRound_counter e (by omega)
  refine ⟨by omega, ?_, ?_, ?_⟩
  · rw [hphase, ht]
    exact if_congr (by omega) rfl rfl
  · have hw := he.formWord hk k (by omega)
    rw [roundsFrom_snoc, Nat.zero_add, ← he.vars, ← hw, ← ht]
    rfl
  · intro j hj
    have hw := he.formWord hk j hj
    rw [← ht] at hw
    exact hw

/-- The state of the block `k` rounds after LOAD. -/
theorem State.engineStep_iterate_rounds (s : State) (hl : s.engine.phase = .load) (k : Nat) (hk : k ≤ 64) :
    ∃ e, State.engineStep^[k + 1] s = { s with engine := e } ∧ e.AfterRounds s.h (bufferWords s.buf) k := by
  induction k with
  | zero => exact ⟨_, s.engineStep_load hl, engineLoad_afterRounds _ _ _⟩
  | succ k ih =>
    obtain ⟨e, hs, he⟩ := ih (by omega)
    have hr : e.phase = .round := by rw [he.phase, if_pos (by omega)]
    refine ⟨Machine.engineRound e, ?_, he.engineRound (by omega)⟩
    rw [Function.iterate_succ_apply', hs, State.engineStep_round _ hr]

/-- LOAD, the 64 ROUND steps and ADD are one compression of BUF (R76, R78). -/
theorem State.engineStep_iterate_compressBuf (s : State) (hl : s.engine.phase = .load) :
    State.engineStep^[66] s = s.compressBuf := by
  obtain ⟨e, hs, he⟩ := s.engineStep_iterate_rounds hl 64 le_rfl
  have ha : e.phase = .add := he.phase
  rw [Function.iterate_succ_apply', hs, State.engineStep_add _ ha]
  unfold State.engineAdd State.compressBuf State.compressBlock State.releaseEngine
  simp only [he.vars, compress_eq]

/-- The engine is running before each of the 66 steps. -/
theorem State.engineStep_iterate_running (s : State) (hl : s.engine.phase = .load) (k : Nat) (hk : k < 66) :
    (State.engineStep^[k] s).engine.phase ≠ .idle := by
  cases k with
  | zero => simp [hl]
  | succ k =>
    obtain ⟨e, hs, he⟩ := s.engineStep_iterate_rounds hl k (by omega)
    rw [hs]
    show e.phase ≠ .idle
    rw [he.phase]
    split <;> simp

/-- As long as the engine runs, settling is the engine's steps. -/
theorem State.settleFor_engineStep (k : Nat) (s : State) (hb : s.busy = true) (hp : s.rspPending = false)
    (hr : ∀ j < k, (State.engineStep^[j] s).engine.phase ≠ .idle) :
    State.settleFor k s = .next (State.engineStep^[k] s) := by
  induction k generalizing s with
  | zero => rfl
  | succ k ih =>
    obtain ⟨h, e, d, hs⟩ := s.engineStep_frame
    have hone := State.settleFor_one _ _ (s.settle_engine hb hp (hr 0 (by omega)))
    rw [Nat.add_comm, State.settleFor_add 1 k _ _ hone, Nat.add_comm, Function.iterate_succ_apply]
    refine ih _ (by rw [hs]; exact hb) (by rw [hs]; exact hp) fun j hj => ?_
    rw [← Function.iterate_succ_apply]
    exact hr (j + 1) (by omega)

/-- The engine's part of a command: from LOAD, 66 steps compress BUF. -/
theorem State.settleFor_compressBuf (s : State) (hb : s.busy = true) (hp : s.rspPending = false)
    (hl : s.engine.phase = .load) : State.settleFor 66 s = .next s.compressBuf := by
  rw [State.settleFor_engineStep 66 s hb hp (s.engineStep_iterate_running hl),
    s.engineStep_iterate_compressBuf hl]

end Sys2Proof.Machine

/-! PROOFS. The steps of a command in progress, and the operations that they do (R82, R83, R87). -/

namespace Sys2Proof.Machine

/-! ### A command in progress: the acceptance and the sequencer position are not seen by its effects -/

/-- A command is in progress and the sequencer is at the position `p` (R29). -/
def State.goTo (s : State) (p : SequencerPosition) : State := { s with busy := true, pos := p }

/-- The acceptance of a word is the first position (R51). -/
theorem State.accept_eq_goTo (s : State) (w : Word64) : s.accept w = s.goTo (.accepted w) := rfl

theorem State.goTo_compressBuf (s : State) (p : SequencerPosition) : (s.goTo p).compressBuf = s.compressBuf.goTo p := by
  unfold State.compressBuf State.compressBlock State.releaseEngine
  rfl

theorem State.goTo_absorbByte (s : State) (p : SequencerPosition) (b : Byte) :
    (s.goTo p).absorbByte b = (s.absorbByte b).goTo p := by
  by_cases hi : s.idx.val + 1 = 64
  · rw [State.absorbByte_full s b hi, State.absorbByte_full (s.goTo p) b hi]
    cases s
    rfl
  · rw [State.absorbByte_part s b hi, State.absorbByte_part (s.goTo p) b hi]
    cases s
    rfl

theorem State.goTo_finishMessage (s : State) (p : SequencerPosition) :
    (s.goTo p).finishMessage = s.finishMessage.goTo p := by
  obtain ⟨ms, hms, hs⟩ := s.finishMessage_spec
  obtain ⟨ms', hms', ht⟩ := (s.goTo p).finishMessage_spec
  rw [hs, ht, hms', hms]
  cases s
  rfl

theorem State.goTo_hashMessage (s : State) (p : SequencerPosition) (n : Nat) :
    (s.goTo p).hashMessage n = (s.hashMessage n).goTo p := by
  rw [State.hashMessage_spec, State.hashMessage_spec]
  cases s
  rfl

/-- A guarded command answers alike whether or not its word was accepted at the ports. -/
theorem State.accept_guarded (s t : State) (w : Word64) (v : Verdict) :
    (s.accept w).guarded v (t.accept w).respondStatus = s.guarded v t.respondStatus := by
  cases v with
  | perform => exact t.accept_respondStatus w
  | gated => exact s.accept_respondStatus w
  | error c => exact s.accept_raise w c

/-- A command does the same whether or not its word was accepted at the ports. -/
theorem exec_accept (i : Instr) (w : Word64) (s : State) : exec i (s.accept w) = exec i s := by
  obtain ⟨habsorb, hfinish, hhash, -⟩ := s.accept_checks w
  cases i with
  | init => exact congrArg Host.Outcome.next (s.startMessage.accept_respondStatus w)
  | absorb b =>
    have heff : (s.accept w).absorbByte b = (s.absorbByte b).accept w := s.goTo_absorbByte (.accepted w) b
    simp only [exec, execAbsorb, habsorb, heff, State.accept_guarded]
  | finish =>
    have heff : (s.accept w).finishMessage = s.finishMessage.accept w := s.goTo_finishMessage (.accepted w)
    simp only [exec, execFinish, hfinish, heff, State.accept_guarded]
  | hashMem n =>
    have heff : (s.accept w).hashMessage n = (s.hashMessage n).accept w := s.goTo_hashMessage (.accepted w) n
    simp only [exec, execHashMem, hhash, heff, State.accept_guarded]
  | rdDigest i => exact congrArg Host.Outcome.next (s.accept_respond w _)
  | rdStatus => exact congrArg Host.Outcome.next (s.accept_respondStatus w)
  | rdLen => exact congrArg Host.Outcome.next (s.accept_respond w _)

/-- So does a word, legal or not. -/
theorem execWord_accept (v w : Word64) (s : State) : execWord v (s.accept w) = execWord v s := by
  unfold execWord
  cases decode v with
  | error r => exact congrArg Host.Outcome.next (s.accept_raise w _)
  | ok i => exact exec_accept i w s

/-- While the engine is IDLE and HASH_MEM waits for no byte, settling is the framer's step. -/
theorem State.settle_goTo (s : State) (p : SequencerPosition) (hp : s.rspPending = false)
    (he : s.engine.phase = .idle) (hpos : ∀ n a, p = .readMsg n a → ¬a < n) :
    (s.goTo p).settle = (s.goTo p).framerStep :=
  State.settle_framer (s.goTo p) rfl hp he (State.msgRequest_none hpos)

/-! ### The sequencer does the operations of the commands (R82, R83) -/

/-- A block handed to the engine: it is compressed, and the framer goes on with its next action. -/
theorem State.settleFor_startEngine (s t : State) (p : SequencerPosition) (hp : s.rspPending = false)
    (hpos : ∀ n a, p ≠ .readMsg n a) (ht : (s.compressBuf.goTo p).framerStep = .next t) :
    State.settleFor 67 (s.goTo p).startEngine = .next t := by
  have hc : State.settleFor 66 (s.goTo p).startEngine = .next (s.compressBuf.goTo p) := by
    rw [State.settleFor_compressBuf (s.goTo p).startEngine rfl hp rfl, State.startEngine_compressBuf,
      State.goTo_compressBuf]
  rw [State.settleFor_add 66 1 _ _ hc]
  apply State.settleFor_one
  rw [State.settle_goTo _ p ((State.compressBuf_rspPending s).trans hp) rfl fun n a h => absurd h (hpos n a), ht]

/-- The first of two final blocks is compressed, and the second one is handed to the engine (R83). -/
theorem State.settleFor_finalFirst (s : State) (bulk : Option Nat) (hp : s.rspPending = false) :
    State.settleFor 67 (s.goTo (.finalFirst bulk)).startEngine = .next
      ({ s.compressBuf with buf := putLength zeroBuffer s.bitLength }.goTo (.finalLast bulk)).startEngine := by
  apply State.settleFor_startEngine s _ _ hp (by simp)
  simp [State.framerStep, State.bitLength, State.goTo]

/-- The last block is compressed, and the command is over (R83). -/
theorem State.settleFor_finalLast (s : State) (bulk : Option Nat) (hp : s.rspPending = false) :
    State.settleFor 67 (s.goTo (.finalLast bulk)).startEngine =
      .next ({ s.compressBuf with buf := zeroBuffer, idx := 0 }.closeBulk bulk).respondStatus := by
  apply State.settleFor_startEngine s _ _ hp (by simp)
  cases bulk <;> rfl

/-- Both final blocks are compressed, and the command is over (R83). -/
theorem State.settleFor_finalBlocks (s : State) (bulk : Option Nat) (hp : s.rspPending = false) :
    State.settleFor 134 (s.goTo (.finalFirst bulk)).startEngine =
      .next ({ { s.compressBuf with buf := putLength zeroBuffer s.bitLength }.compressBuf with
        buf := zeroBuffer, idx := 0 }.closeBulk bulk).respondStatus := by
  rw [State.settleFor_add 67 67 _ _ (s.settleFor_finalFirst bulk hp)]
  exact State.settleFor_finalLast { s.compressBuf with buf := putLength zeroBuffer s.bitLength } bulk (by simp [hp])

/-- From the boundary decision to the response the sequencer does `finish()` (R83). -/
theorem State.settleFor_beginFinal (s : State) (p : SequencerPosition) (bulk : Option Nat)
    (hp : s.rspPending = false) :
    State.settleFor (if s.idx.val < 56 then 67 else 134) ((s.goTo p).beginFinal bulk) =
      .next (s.finishMessage.closeBulk bulk).respondStatus := by
  unfold State.finishMessage State.bitLength
  by_cases hi : s.idx.val < 56
  · rw [if_pos hi, if_pos hi, State.beginFinal, if_pos (show (s.goTo p).idx.val < 56 from hi)]
    exact State.settleFor_finalLast
      { s with flag := .padFits, buf := putLength (terminate s.buf s.idx.val) s.bitLength } bulk hp
  · rw [if_neg hi, if_neg hi, State.beginFinal, if_neg (show ¬(s.goTo p).idx.val < 56 from hi)]
    have hblocks := State.settleFor_finalBlocks
      { s with flag := .padSpills, buf := terminate s.buf s.idx.val } bulk hp
    unfold State.bitLength at hblocks
    exact hblocks

/-- From the byte of an ABSORB that completes a block to the response the sequencer does `absorb_byte` (R82). -/
theorem State.settleFor_beginAbsorbBlock (s : State) (p : SequencerPosition) (b : Byte) (hp : s.rspPending = false)
    (hi : s.idx.val + 1 = 64) :
    State.settleFor 67 ((s.goTo p).beginAbsorbBlock b) = .next (s.absorbByte b).respondStatus := by
  rw [State.absorbByte_full s b hi]
  exact State.settleFor_startEngine (s.storeByte b) _ .absorbBlock hp (by simp) rfl

/-- The number of steps that HASH_MEM takes for a byte at the index `i` of its block. -/
def byteSteps (i : Nat) : Nat := if i + 1 = 64 then 68 else 1

/-- HASH_MEM reads one byte of MSG: the sequencer does `absorb_byte` with it (R82, R87). -/
theorem State.settleFor_readMsg (s : State) (n a : Nat) (hp : s.rspPending = false) (he : s.engine.phase = .idle)
    (ha : a < n) (hn : n ≤ s.msgSize) :
    State.settleFor (byteSteps s.idx.val) (s.goTo (.readMsg n a)) =
      .next ((s.absorbByte (s.memRead a)).goTo (.readMsg n (a + 1))) := by
  have hreq : (s.goTo (.readMsg n a)).msgRequest = some a := by simp [State.msgRequest, State.goTo, he, ha]
  have hs : (s.goTo (.readMsg n a)).settle = .next ((s.goTo (.readMsg n a)).takeMsgByte n a (s.memRead a)) := by
    unfold State.settle State.memReply
    rw [hreq]
    show (if s.rspPending then _ else if a < s.msgSize then _ else _) = _
    rw [hp, if_neg (by simp), if_pos (Nat.lt_of_lt_of_le ha hn)]
    rfl
  by_cases hi : s.idx.val + 1 = 64
  · rw [byteSteps, if_pos hi, State.settleFor_add 1 67 _ _ (State.settleFor_one _ _ hs), State.absorbByte_full s _ hi,
      State.takeMsgByte, if_pos (show (s.goTo _).idx.val + 1 = 64 from hi)]
    exact State.settleFor_startEngine (s.storeByte _) _ (.bulkBlock n (a + 1)) hp (by simp) rfl
  · rw [byteSteps, if_neg hi, State.settleFor_one _ _ hs, State.absorbByte_part s _ hi,
      State.takeMsgByte, if_neg (show ¬(s.goTo _).idx.val + 1 = 64 from hi)]
    rfl

end Sys2Proof.Machine

/-! PROOFS. A message byte by byte: its full blocks, its rest in BUF and its final blocks (R79 to R83). -/

namespace Sys2Proof.Machine

/-! ### The blocks of a message that grows by one byte -/

/-- The words of a buffer that holds 64 bytes of a sequence from `a` on. -/
theorem bufferWords_eq_blockAt_from (buf : Buffer) (l : List Byte) (a : Nat)
    (h : ∀ (j : Nat) (_ : j < 64), buf[j] = l.getD (a + j) 0) : bufferWords buf = blockAt l a := by
  apply blockAt_congr
  intro j hj
  rw [Nat.zero_add, vector_toList_getD _ _ hj, h j hj]

/-- The full blocks of a message are those of every message that it begins. -/
theorem fullBlocks_append (m l : List Byte) :
    ((List.range (m.length / 64)).map fun k => blockAt (m ++ l) (64 * k)) =
      (List.range (m.length / 64)).map fun k => blockAt m (64 * k) := by
  refine List.map_congr_left fun k hk => blockAt_congr _ _ _ _ fun j hj => ?_
  have hk := List.mem_range.1 hk
  exact List.getD_append _ _ _ _ (by omega)

theorem getD_snoc (m : List Byte) (b : Byte) (j : Nat) :
    (m ++ [b]).getD j 0 = if j = m.length then b else m.getD j 0 := by
  by_cases hj : j < m.length
  · rw [List.getD_append _ _ _ _ hj, if_neg (by omega)]
  · rw [List.getD_append_right _ _ _ _ (by omega)]
    split
    · next h => simp [h]
    · next h => simp [List.getD, List.getElem?_eq_none, show 1 ≤ j - m.length by omega, show m.length ≤ j by omega]

/-- A byte stored at IDX in the buffer of an open message. -/
theorem openBuffer_set_getElem (m : List Byte) (b : Byte) (j : Nat) (hj : j < 64) :
    ((openBuffer m).set (m.length % 64) b (Nat.mod_lt _ (by omega)))[j] =
      (m ++ [b]).getD (64 * (m.length / 64) + j) 0 := by
  rw [Vector.getElem_set, getD_snoc, openBuffer_getElem _ _ hj]
  exact if_congr (by omega) rfl rfl

theorem openBuffer_snoc_part (m : List Byte) (b : Byte) (h : m.length % 64 + 1 ≠ 64) :
    openBuffer (m ++ [b]) = (openBuffer m).set (m.length % 64) b (Nat.mod_lt _ (by omega)) := by
  apply Vector.ext
  intro j hj
  rw [openBuffer_set_getElem _ _ _ hj, openBuffer_getElem _ _ hj, List.length_append, List.length_singleton,
    show (m.length + 1) / 64 = m.length / 64 by omega]

/-- The buffer is empty when the message consists of full blocks. -/
theorem openBuffer_eq_zeroBuffer (m : List Byte) (h : m.length % 64 = 0) : openBuffer m = zeroBuffer := by
  apply Vector.ext
  intro j hj
  rw [openBuffer_getElem _ _ hj]
  simp [zeroBuffer, List.getD, show m.length ≤ 64 * (m.length / 64) + j by omega]

theorem chainingValue_snoc_part (m : List Byte) (b : Byte) (h : m.length % 64 + 1 ≠ 64) :
    chainingValue (m ++ [b]) = chainingValue m := by
  unfold chainingValue
  rw [List.length_append, List.length_singleton, show (m.length + 1) / 64 = m.length / 64 by omega, fullBlocks_append]

/-- The block that a byte completes. -/
theorem bufferWords_openBuffer_set (m : List Byte) (b : Byte) :
    bufferWords ((openBuffer m).set (m.length % 64) b (Nat.mod_lt _ (by omega))) =
      blockAt (m ++ [b]) (64 * (m.length / 64)) :=
  bufferWords_eq_blockAt_from _ _ _ fun j hj => openBuffer_set_getElem m b j hj

/-- The byte that completes a block has it compressed (R82). -/
theorem chainingValue_snoc_full (m : List Byte) (b : Byte) (h : m.length % 64 + 1 = 64) :
    chainingValue (m ++ [b]) =
      compress (chainingValue m) (bufferWords ((openBuffer m).set (m.length % 64) b (Nat.mod_lt _ (by omega)))) := by
  unfold chainingValue
  rw [List.length_append, List.length_singleton, show (m.length + 1) / 64 = m.length / 64 + 1 by omega,
    List.range_succ, List.map_append, fullBlocks_append, compressAll, List.foldl_append,
    bufferWords_openBuffer_set]
  rfl

/-! ### The final blocks -/

theorem terminate_getElem (buf : Buffer) (i j : Nat) (hj : j < 64) :
    (terminate buf i)[j] = if j < i then buf[j] else if j = i then 0x80 else 0 := by
  simp [terminate]

theorem putLength_getElem (buf : Buffer) (v : Word64) (j : Nat) (hj : j < 64) :
    (putLength buf v)[j] = if j < 56 then buf[j] else be64Byte v (j - 56) := by
  simp [putLength]

/-- The blocks that FINISH compresses for the open message `m`: its rest, the terminator and the length (R80, R83). -/
def finalBlocks (m : List Byte) : List Block :=
  if m.length % 64 < 56 then
    [bufferWords (putLength (terminate (openBuffer m) (m.length % 64)) (BitVec.ofNat 64 (8 * m.length)))]
  else
    [bufferWords (terminate (openBuffer m) (m.length % 64)),
      bufferWords (putLength zeroBuffer (BitVec.ofNat 64 (8 * m.length)))]

/-- The rest of the message with the terminator is what P(m) has there, up to the length field (R79, R83). -/
theorem terminate_openBuffer_getElem (m : List Byte) (j : Nat) (hj : j < 64)
    (h : 64 * (m.length / 64) + j < m.length + 1 + padZeros m.length) :
    (terminate (openBuffer m) (m.length % 64))[j] = (padded m).getD (64 * (m.length / 64) + j) 0 := by
  rw [terminate_getElem _ _ _ hj]
  rcases Nat.lt_trichotomy j (m.length % 64) with hlt | heq | hgt
  · rw [if_pos hlt, openBuffer_getElem _ _ hj, padded_getD_message _ _ (by omega)]
  · rw [if_neg (by omega), if_pos heq, show 64 * (m.length / 64) + j = m.length by omega, padded_getD_terminator]
  · rw [if_neg (by omega), if_neg (by omega), padded_getD_zero _ _ (by omega) h]

/-- The last eight bytes of the last block are the length field of P(m) (R79, R83). -/
theorem putLength_getElem_padded (m : List Byte) (buf : Buffer) (a j : Nat) (hj : j < 64)
    (ha : a + 64 = (padded m).length) (h : j < 56 → buf[j] = (padded m).getD (a + j) 0) :
    (putLength buf (BitVec.ofNat 64 (8 * m.length)))[j] = (padded m).getD (a + j) 0 := by
  rw [padded_length] at ha
  rw [putLength_getElem _ _ _ hj]
  by_cases h56 : j < 56
  · rw [if_pos h56, h h56]
  · rw [if_neg h56, padded_getD_length _ _ (by omega) (by omega)]
    congr 1
    omega

/-- P(m) is the full blocks of m and then the blocks of FINISH (R81, R83). -/
theorem blocksOf_padded (m : List Byte) :
    blocksOf (padded m) = ((List.range (m.length / 64)).map fun k => blockAt m (64 * k)) ++ finalBlocks m := by
  obtain ⟨hz, hmod⟩ := padZeros_spec m.length
  have hlen := padded_length m
  have hfull : ((List.range (m.length / 64)).map fun k => blockAt (padded m) (64 * k)) =
      (List.range (m.length / 64)).map fun k => blockAt m (64 * k) := by
    unfold padded
    rw [List.append_assoc, List.append_assoc, fullBlocks_append]
  unfold blocksOf finalBlocks
  by_cases hi : m.length % 64 < 56
  · rw [if_pos hi, show (padded m).length / 64 = m.length / 64 + 1 by omega, List.range_succ, List.map_append, hfull,
      bufferWords_eq_blockAt_from _ (padded m) (64 * (m.length / 64)) fun j hj =>
        putLength_getElem_padded m _ _ j hj (by omega) fun h56 =>
          terminate_openBuffer_getElem m j hj (by omega)]
    rfl
  · rw [if_neg hi, show (padded m).length / 64 = m.length / 64 + 1 + 1 by omega, List.range_succ, List.range_succ,
      List.map_append, List.map_append, hfull, List.append_assoc,
      bufferWords_eq_blockAt_from _ (padded m) (64 * (m.length / 64)) fun j hj =>
        terminate_openBuffer_getElem m j hj (by omega),
      bufferWords_eq_blockAt_from _ (padded m) (64 * (m.length / 64 + 1)) fun j hj =>
        putLength_getElem_padded m _ _ j hj (by omega) fun h56 => by
          rw [padded_getD_zero m _ (by omega) (by omega)]
          simp [zeroBuffer]]
    rfl

/-- The digest is the chaining value of the open message with the final blocks compressed into it (R83, R89). -/
theorem sha256_eq_finalBlocks (m : List Byte) : sha256 m = compressAll (chainingValue m) (finalBlocks m) := by
  rw [sha256, blocksOf_padded, compressAll, List.foldl_append]
  rfl

/-! ### The state while a message is open -/

/-- `s` when the message `m` has been opened and absorbed: its full blocks are compressed, one draw each, and the rest
is in BUF (R82). The engine holds `e`. -/
def State.afterBytes (s : State) (m : List Byte) (e : Engine) : State :=
  { s with
    h := chainingValue m, buf := openBuffer m, idx := Fin.ofNat 64 m.length, len := BitVec.ofNat 64 m.length,
    flag := .streaming, err := noErrors, engine := e, draw := s.draw + m.length / 64 }

/-- A new message has no bytes (R84). -/
theorem State.startMessage_eq_afterBytes (s : State) : s.startMessage = s.afterBytes [] s.engine := by
  unfold State.startMessage State.afterBytes
  rw [openBuffer_eq_zeroBuffer [] rfl]
  rfl

/-- `absorb_byte` appends its byte to the open message (R82). -/
theorem State.afterBytes_absorbByte (s : State) (m : List Byte) (e : Engine) (b : Byte) (he : e.phase = .idle) :
    ∃ e', (s.afterBytes m e).absorbByte b = s.afterBytes (m ++ [b]) e' ∧ e'.phase = .idle := by
  obtain ⟨h, buf, idx, e', hs, hidx, hidle, hpart, hfull⟩ := (s.afterBytes m e).absorbByte_spec b
  refine ⟨e', ?_, hidle he⟩
  have hval : (s.afterBytes m e).idx.val = m.length % 64 := rfl
  have hlen : (m ++ [b]).length = m.length + 1 := by simp
  have hidx' : idx = Fin.ofNat 64 (m ++ [b]).length := by
    apply Fin.ext
    rw [hidx, hval, hlen]
    exact Nat.mod_add_mod m.length 64 1
  have hh : h = chainingValue (m ++ [b]) ∧ buf = openBuffer (m ++ [b]) := by
    by_cases h64 : m.length % 64 + 1 = 64
    · obtain ⟨hh, hbuf, -⟩ := hfull h64
      rw [chainingValue_snoc_full m b h64, openBuffer_eq_zeroBuffer (m ++ [b]) (by omega)]
      exact ⟨hh, hbuf⟩
    · obtain ⟨hh, hbuf, -⟩ := hpart h64
      rw [chainingValue_snoc_part m b h64, openBuffer_snoc_part m b h64]
      exact ⟨hh, hbuf⟩
  obtain ⟨rfl, rfl⟩ := hh
  rw [hs, hidx', hval]
  unfold State.afterBytes
  rw [hlen, BitVec.ofNat_add, Nat.add_assoc s.draw,
    show m.length / 64 + (m.length % 64 + 1) / 64 = (m.length + 1) / 64 by omega]
  rfl

/-- `finish()` leaves the digest of the open message (R83, R89). -/
theorem State.afterBytes_finishMessage (s : State) (m : List Byte) (e : Engine) :
    (s.afterBytes m e).finishMessage = { s with
      h := sha256 m, buf := zeroBuffer, idx := 0, len := BitVec.ofNat 64 m.length, flag := paddingFlag (m.length % 64),
      err := noErrors, engine := releasedEngine (s.draw + (blocksOf (padded m)).length - 1),
      draw := s.draw + (blocksOf (padded m)).length } := by
  obtain ⟨ms, hms, hs⟩ := (s.afterBytes m e).finishMessage_spec
  have hbits : (s.afterBytes m e).bitLength = BitVec.ofNat 64 (8 * m.length) := by
    apply BitVec.eq_of_toNat_eq
    simp only [State.bitLength, State.afterBytes, BitVec.toNat_ofNat]
    omega
  rw [hbits] at hms
  have hfinal : ms = finalBlocks m := hms
  have hcount : s.draw + (blocksOf (padded m)).length = s.draw + m.length / 64 + ms.length := by
    rw [blocksOf_padded, hfinal, List.length_append, List.length_map, List.length_range]
    omega
  rw [hs, hcount, sha256_eq_finalBlocks, ← hfinal]
  rfl

end Sys2Proof.Machine

/-! PROOFS. From the acceptance of a word to its response, the sequencer does the word's transaction (R7, R108). -/

namespace Sys2Proof.Machine

/-! ### HASH_MEM in progress -/

theorem State.closeBulk_none (s : State) : s.closeBulk none = s := if_neg (by simp)

theorem State.message_length (s : State) (n : Nat) : (s.message n).length = n := by simp [State.message]

theorem State.message_succ (s : State) (n : Nat) : s.message (n + 1) = s.message n ++ [s.memRead n] := by
  simp [State.message, List.range_succ]

/-- After its first `a` bytes a HASH_MEM has them absorbed (R82, R87). -/
theorem State.settleFor_message (s : State) (n a : Nat) (hp : s.rspPending = false) (he : s.engine.phase = .idle)
    (hn : n ≤ s.msgSize) (ha : a ≤ n) :
    ∃ e, State.settleFor (a + 67 * (a / 64)) (s.startMessage.goTo (.readMsg n 0)) =
        .next ((s.afterBytes (s.message a) e).goTo (.readMsg n a)) ∧ e.phase = .idle := by
  induction a with
  | zero =>
    refine ⟨s.engine, ?_, he⟩
    rw [s.startMessage_eq_afterBytes]
    rfl
  | succ a ih =>
    obtain ⟨e, hs, hidle⟩ := ih (by omega)
    obtain ⟨e', habsorb, hidle'⟩ := s.afterBytes_absorbByte (s.message a) e (s.memRead a) hidle
    have hread := (s.afterBytes (s.message a) e).settleFor_readMsg n a hp hidle ha hn
    have hidx : (s.afterBytes (s.message a) e).idx.val = a % 64 := congrArg (· % 64) (s.message_length a)
    have hmem : (s.afterBytes (s.message a) e).memRead a = s.memRead a := State.memRead_congr a rfl rfl
    have hsteps : a + 1 + 67 * ((a + 1) / 64) = a + 67 * (a / 64) + byteSteps (a % 64) := by
      unfold byteSteps
      split <;> omega
    refine ⟨e', ?_, hidle'⟩
    rw [hsteps, State.settleFor_add _ _ _ _ hs, ← hidx, hread, hmem, habsorb, s.message_succ]

/-- The end of the message of a HASH_MEM: `finish()` leaves what HASH_MEM leaves, and its draw is used up (R87, R88). -/
theorem State.afterBytes_closeBulk (s : State) (n : Nat) (e : Engine) :
    ((s.afterBytes (s.message n) e).finishMessage.closeBulk (some n)) = s.hashMessage n := by
  rw [State.afterBytes_finishMessage, State.hashMessage_spec, s.message_length]
  rfl

/-- From the first read of a HASH_MEM to its response the sequencer does what HASH_MEM does (R87). -/
theorem State.settleFor_hashMessage (s : State) (n : Nat) (hp : s.rspPending = false) (he : s.engine.phase = .idle)
    (hn : n ≤ s.msgSize) :
    State.settleFor (n + 67 * (n / 64) + (if n % 64 < 56 then 68 else 135)) (s.startMessage.goTo (.readMsg n 0)) =
      .next (s.hashMessage n).respondStatus := by
  obtain ⟨e, hs, hidle⟩ := s.settleFor_message n n hp he hn le_rfl
  have hidx : (s.afterBytes (s.message n) e).idx.val = n % 64 := congrArg (· % 64) (s.message_length n)
  have hfinal := (s.afterBytes (s.message n) e).settleFor_beginFinal (.readMsg n n) (some n) hp
  have hbegin : ((s.afterBytes (s.message n) e).goTo (.readMsg n n)).settle =
      .next (((s.afterBytes (s.message n) e).goTo (.readMsg n n)).beginFinal (some n)) := by
    rw [State.settle_goTo (s.afterBytes (s.message n) e) _ hp hidle fun k a h => by cases h; exact Nat.lt_irrefl n]
    exact congrArg Host.Outcome.next (if_neg (Nat.lt_irrefl n))
  have hsteps : (if n % 64 < 56 then 68 else 135) = 1 + (if n % 64 < 56 then 67 else 134) := by split <;> rfl
  rw [State.settleFor_add _ _ _ _ hs, hsteps, State.settleFor_add 1 _ _ _ (State.settleFor_one _ _ hbegin), ← hidx,
    hfinal, s.afterBytes_closeBulk]

/-! ### From the acceptance to the response -/

/-- The first step of a command in progress (R29). -/
theorem State.settleFor_accept (s t : State) (w : Word64) (k : Nat) (hp : s.rspPending = false)
    (he : s.engine.phase = .idle) (hbegin : (s.accept w).beginCommand w = .next t) :
    State.settleFor (1 + k) (s.accept w) = State.settleFor k t := by
  have hfirst : (s.accept w).settle = .next t :=
    (s.settle_goTo (.accepted w) hp he fun n a h => nomatch h).trans hbegin
  exact State.settleFor_add 1 k _ _ (State.settleFor_one _ _ hfirst)

/-- A command that its first step does whole (R7). -/
theorem State.settleFor_accept_whole (s : State) (w : Word64) (hp : s.rspPending = false)
    (he : s.engine.phase = .idle) (hbegin : (s.accept w).beginCommand w = execWord w (s.accept w)) :
    State.settleFor 1 (s.accept w) = execWord w s := by
  obtain ⟨t, ht, -⟩ := execWord_cases w s
  rw [execWord_accept, ht] at hbegin
  rw [s.settleFor_accept t w 0 hp he hbegin, ht]
  rfl

section
variable (s : State) (w : Word64) (hp : s.rspPending = false) (he : s.engine.phase = .idle)
include hp he

/-- ABSORB in progress does what ABSORB does (R82, R85). -/
theorem State.settleFor_absorb (b : Byte) (hw : decode w = .ok (.absorb b)) :
    State.settleFor (s.commandSteps w) (s.accept w) = execWord w s := by
  obtain ⟨hcheck, -⟩ := s.accept_checks w
  by_cases hfull : s.absorbCheck = .perform ∧ s.idx.val + 1 = 64
  · have hbegin : (s.accept w).beginCommand w = .next ((s.accept w).beginAbsorbBlock b) := by
      simp only [State.beginCommand, hw]
      rw [hcheck]
      exact if_pos hfull
    have hsteps : s.commandSteps w = 1 + 67 := by simp only [State.commandSteps, hw, hfull, and_self, if_true]
    rw [hsteps, s.settleFor_accept _ w 67 hp he hbegin]
    rw [State.accept_eq_goTo, s.settleFor_beginAbsorbBlock _ b hp hfull.2]
    simp only [execWord, hw, exec, execAbsorb, hfull.1, State.guarded]
  · have hbegin : (s.accept w).beginCommand w = execWord w (s.accept w) := by
      simp only [State.beginCommand, hw]
      rw [hcheck]
      exact if_neg hfull
    have hsteps : s.commandSteps w = 1 := by simp only [State.commandSteps, hw, hfull, if_false]
    rw [hsteps, s.settleFor_accept_whole w hp he hbegin]

/-- FINISH in progress does what FINISH does (R83, R86). -/
theorem State.settleFor_finish (hw : decode w = .ok .finish) :
    State.settleFor (s.commandSteps w) (s.accept w) = execWord w s := by
  obtain ⟨-, hcheck, -⟩ := s.accept_checks w
  by_cases hperform : s.finishCheck = .perform
  · have hbegin : (s.accept w).beginCommand w = .next ((s.accept w).beginFinal none) := by
      simp only [State.beginCommand, hw, hcheck, hperform, if_true]
    have hsteps : s.commandSteps w = 1 + (if s.idx.val < 56 then 67 else 134) := by
      simp only [State.commandSteps, hw, hperform, if_true]
      split <;> rfl
    rw [hsteps, s.settleFor_accept _ w _ hp he hbegin, State.accept_eq_goTo, s.settleFor_beginFinal _ none hp,
      State.closeBulk_none]
    simp only [execWord, hw, exec, execFinish, hperform, State.guarded]
  · have hbegin : (s.accept w).beginCommand w = execWord w (s.accept w) := by
      simp only [State.beginCommand, hw, hcheck, hperform, if_false]
    have hsteps : s.commandSteps w = 1 := by simp only [State.commandSteps, hw, hperform, if_false]
    rw [hsteps, s.settleFor_accept_whole w hp he hbegin]

/-- HASH_MEM in progress does what HASH_MEM does (R87). -/
theorem State.settleFor_hashMem (n : Nat) (hw : decode w = .ok (.hashMem n)) :
    State.settleFor (s.commandSteps w) (s.accept w) = execWord w s := by
  obtain ⟨-, -, hcheck, -⟩ := s.accept_checks w
  by_cases hperform : s.hashCheck n = .perform
  · have hbegin : (s.accept w).beginCommand w = .next (s.startMessage.goTo (.readMsg n 0)) := by
      simp only [State.beginCommand, hw, hcheck, hperform, if_true]
      rfl
    have hsteps : s.commandSteps w = 1 + (n + 67 * (n / 64) + (if n % 64 < 56 then 68 else 135)) := by
      simp only [State.commandSteps, hw, hperform, if_true]
      omega
    rw [hsteps, s.settleFor_accept _ w _ hp he hbegin,
      s.settleFor_hashMessage n hp he ((s.hashCheck_perform n).1 hperform)]
    simp only [execWord, hw, exec, execHashMem, hperform, State.guarded]
  · have hbegin : (s.accept w).beginCommand w = execWord w (s.accept w) := by
      simp only [State.beginCommand, hw, hcheck, hperform, if_false]
    have hsteps : s.commandSteps w = 1 := by simp only [State.commandSteps, hw, hperform, if_false]
    rw [hsteps, s.settleFor_accept_whole w hp he hbegin]

end

/-- Settles O53: ABSORB, FINISH and HASH_MEM each by the operation that their steps do, every other word by its first
step. -/
theorem sequencerRefinesTransactions : Obligations.SequencerRefinesTransactions := by
  intro w s hready he
  obtain ⟨-, hp⟩ := s.ready_iff.1 hready
  have hwhole (hbegin : (s.accept w).beginCommand w = execWord w (s.accept w)) (hsteps : s.commandSteps w = 1) :
      State.settleFor (s.commandSteps w) (s.accept w) = execWord w s := by
    rw [hsteps, s.settleFor_accept_whole w hp he hbegin]
  cases hw : decode w with
  | error r => exact hwhole (by simp only [State.beginCommand, hw]) (by simp only [State.commandSteps, hw])
  | ok i =>
    cases i with
    | absorb b => exact s.settleFor_absorb w hp he b hw
    | finish => exact s.settleFor_finish w hp he hw
    | hashMem n => exact s.settleFor_hashMem w hp he n hw
    | init | rdDigest i | rdStatus | rdLen =>
      exact hwhole (by simp only [State.beginCommand, hw]) (by simp only [State.commandSteps, hw])

end Sys2Proof.Machine

/-! PROOFS. A step at an offered word (R7, R51, R52). -/

namespace Sys2Proof.Machine

/-- A ready block does the word of the transaction that comes next, and its response is taken (R7, R51, R52). -/
theorem step_transact (s : State) (w : Word64) (rest : List Event) (hev : s.events = .transact w :: rest)
    (hready : s.ready = true) : step s = taken (execWord w { s with events := rest, offered := none }) := by
  simp only [step, hev, State.applyEvent, hready, if_true]
  rfl

theorem execWord_of_decode {w : Word64} {i : Instr} (s : State) (hw : decode w = .ok i) :
    execWord w s = exec i s := by
  simp only [execWord, hw]

theorem execWord_of_reject {w : Word64} {r : Reject} (s : State) (hw : decode w = .error r) :
    execWord w s = .next (s.raise .cmd) := by
  simp only [execWord, hw]

/-- Settles O54: the step is the transaction of its word, which is a command's meaning or raises ERR_CMD. -/
theorem stepRunsTheDecodedCommand : Obligations.StepRunsTheDecodedCommand := by
  intro s w rest hev hready
  have hstep := step_transact s w rest hev hready
  refine ⟨hstep, fun i t hw ht => ?_, fun r hw => ?_⟩
  · rw [hstep, execWord_of_decode _ hw, ht]
    rfl
  · rw [hstep, execWord_of_reject _ hw]
    refine ⟨_, rfl, ?_⟩
    cases s
    rfl

end Sys2Proof.Machine

/-! PROOFS. Every step keeps the invariant (R20, R21, R28, R30, R33, R51). -/

namespace Sys2Proof.Machine

/-! ### The invariant during a command and between two commands -/

/-- The round counter is free while no round is made (R28). -/
theorem Engine.counterOk_of_phase {e : Engine} (h : e.phase = .idle ∨ e.phase = .load) : e.CounterOk := by
  rcases h with h | h <;> simp [Engine.CounterOk, h]

/-- What the invariant says between two commands of the fields that commands are about. -/
structure State.Quiet (s : State) : Prop where
  len_le : s.len.toNat ≤ 2 ^ 61 - 1
  memoryOk : s.MemoryOk
  between : s.Between

/-- What the invariant says during a command, whatever the sequencer position. -/
structure State.Running (s : State) : Prop where
  busy : s.busy = true
  len_le : s.len.toNat ≤ 2 ^ 61 - 1
  memoryOk : s.MemoryOk
  rspPending : s.rspPending = false

/-- It speaks of BUSY, LEN, RSP_PENDING, MSG and MA_W alone. -/
theorem State.Running.congr {s t : State} (hs : s.Running) (hb : t.busy = s.busy) (hl : t.len = s.len)
    (hp : t.rspPending = s.rspPending) (hm : t.msg = s.msg) (hw : t.maW = s.maW) : t.Running :=
  ⟨hb ▸ hs.busy, hl ▸ hs.len_le, State.memoryOk_congr hs.memoryOk hm hw, hp ▸ hs.rspPending⟩

/-- The invariant during a command. -/
theorem State.Running.inv {s : State} (hs : s.Running) (hcounter : s.engine.CounterOk) (hprog : s.InProgress) :
    s.Inv := by
  refine ⟨hs.len_le, hs.memoryOk, by simp [hs.rspPending], hcounter, ?_⟩
  rw [if_pos hs.busy]
  exact hprog

theorem State.running_of_inv {s : State} (hs : s.Inv) (hb : s.busy = true) :
    s.Running ∧ s.engine.CounterOk ∧ s.InProgress := by
  obtain ⟨hlen, hmem, hone, hcounter, hprog⟩ := hs
  rw [if_pos hb] at hprog
  exact ⟨⟨hb, hlen, hmem, by simpa [hb] using hone⟩, hcounter, hprog⟩

theorem State.Quiet.inv {s : State} (hs : s.Quiet) (hb : s.busy = false) (hpos : s.pos = .idle) : s.Inv := by
  refine ⟨hs.len_le, hs.memoryOk, by simp [hb], Engine.counterOk_of_phase (.inl hs.between.1), ?_⟩
  rw [if_neg (by simp [hb])]
  exact ⟨hpos, hs.between⟩

theorem State.quiet_of_inv {s : State} (hs : s.Inv) (hb : s.busy = false) : s.Quiet ∧ s.pos = .idle := by
  obtain ⟨hlen, hmem, -, -, hidle⟩ := hs
  rw [if_neg (by simp [hb])] at hidle
  exact ⟨⟨hlen, hmem, hidle.2⟩, hidle.1⟩

/-- A response ends a command with the invariant where the effects leave what holds between commands (R52). -/
theorem State.Quiet.respond_inv {s : State} (hs : s.Quiet) (v : Word64) : (s.respond v).Inv :=
  State.Quiet.inv ⟨hs.len_le, hs.memoryOk, hs.between⟩ (s.respond_busy v) (s.respond_pos v)

theorem State.Quiet.respondStatus_inv {s : State} (hs : s.Quiet) : s.respondStatus.Inv := hs.respond_inv s.status

/-! ### What the operations of the commands leave between two commands -/

theorem zeroFrom_zeroBuffer (i : Nat) : ZeroFrom zeroBuffer i := fun j _ => by simp [zeroBuffer]

/-- After a message was started or closed: the engine IDLE, BUF and IDX cleared, and LEN a whole number of blocks while
the message is open (R30). -/
theorem State.between_of_cleared {s : State} (he : s.engine.phase = .idle) (hbuf : s.buf = zeroBuffer)
    (hidx : s.idx = 0) (hlen : s.flag = .streaming → s.len.toNat % 64 = 0) : s.Between := by
  refine ⟨he, fun hf => ?_, fun _ => ?_, ?_⟩
  · rw [hlen hf, hidx]; rfl
  · rw [hidx]; rfl
  · rw [hbuf]; exact zeroFrom_zeroBuffer _

theorem State.storeByte_len_toNat (s : State) (b : Byte) (h : s.len.toNat < 2 ^ 61 - 1) :
    (s.storeByte b).len.toNat = s.len.toNat + 1 := by
  rw [State.storeByte_len, BitVec.toNat_add, show (1 : Word64).toNat = 1 from rfl]
  omega

theorem State.storeByte_idx_val (s : State) (b : Byte) : (s.storeByte b).idx.val = (s.idx.val + 1) % 64 := by
  rw [State.storeByte_idx, Fin.val_add]
  rfl

/-- A byte stored in an open message keeps IDX = LEN mod 64 and the zeros from IDX on, where it completes no block (R30,
R82). -/
theorem State.Between.storeByte {s : State} (hs : s.Between) (b : Byte) (hf : s.flag = .streaming)
    (hlen : s.len.toNat < 2 ^ 61 - 1) (hi : s.idx.val + 1 ≠ 64) : (s.storeByte b).Between := by
  obtain ⟨he, hidx, -, hzero⟩ := hs
  have hval : (s.storeByte b).idx.val = s.idx.val + 1 := by
    rw [State.storeByte_idx_val]; have := s.idx.isLt; omega
  refine ⟨by simpa using he, fun _ => ?_, fun h => absurd hf (by simpa using h), fun j hj => ?_⟩
  · rw [State.storeByte_len_toNat s b hlen, State.storeByte_idx_val, hidx hf]
    omega
  · rw [hval] at hj
    have hne : s.idx.val ≠ j.val := by omega
    simp only [State.storeByte_buf]
    rw [Vector.getElem_set_ne _ _ hne]
    exact hzero j (by omega)

/-- The boundary decision closes the message (R80). -/
theorem paddingFlag_ne_streaming (i : Nat) : paddingFlag i ≠ .streaming := by
  unfold paddingFlag; split <;> simp

/-- ABSORB performed counts its byte within LEN_MAX (R21). -/
theorem State.len_lt_of_absorbCheck {s : State} (hlen : s.len.toNat ≤ 2 ^ 61 - 1) (h : s.absorbCheck = .perform) :
    s.len.toNat < 2 ^ 61 - 1 := by
  obtain ⟨-, -, hne⟩ := s.absorbCheck_perform.1 h
  have hne : s.len.toNat ≠ 2 ^ 61 - 1 := fun h => hne (BitVec.eq_of_toNat_eq h)
  omega

section
variable {s : State} (hs : s.Quiet)
include hs

theorem State.Quiet.startMessage : s.startMessage.Quiet where
  len_le := by simp
  memoryOk := hs.memoryOk
  between := State.between_of_cleared hs.between.1 rfl rfl fun _ => rfl

/-- IDX 63 of an open message means that the next byte makes LEN a whole number of blocks (R30). -/
theorem State.Quiet.storeByte_len_mod (b : Byte) (hf : s.flag = .streaming) (hlen : s.len.toNat < 2 ^ 61 - 1)
    (hi : s.idx.val + 1 = 64) : (s.storeByte b).len.toNat % 64 = 0 := by
  obtain ⟨-, hidx, -⟩ := hs.between
  have hidx := hidx hf
  rw [State.storeByte_len_toNat s b hlen]
  omega

theorem State.Quiet.absorbByte (b : Byte) (h : s.absorbCheck = .perform) : (s.absorbByte b).Quiet := by
  obtain ⟨-, hf, -⟩ := s.absorbCheck_perform.1 h
  have hlen := State.len_lt_of_absorbCheck hs.len_le h
  have hlen' := State.storeByte_len_toNat s b hlen
  by_cases hi : s.idx.val + 1 = 64
  · rw [State.absorbByte_full s b hi]
    refine ⟨?_, ?_, State.between_of_cleared rfl rfl rfl fun _ => ?_⟩
    · simp only [State.compressBuf_len]; omega
    · exact State.memoryOk_congr hs.memoryOk (by simp) (by simp)
    · simp only [State.compressBuf_len]; exact hs.storeByte_len_mod b hf hlen hi
  · rw [State.absorbByte_part s b hi]
    exact ⟨by omega, State.memoryOk_congr hs.memoryOk (by simp) (by simp), hs.between.storeByte b hf hlen hi⟩

theorem State.Quiet.finishMessage : s.finishMessage.Quiet := by
  obtain ⟨ms, -, heq⟩ := s.finishMessage_spec
  rw [heq]
  exact ⟨hs.len_le, hs.memoryOk,
    State.between_of_cleared rfl rfl rfl fun h : paddingFlag _ = _ => absurd h (paddingFlag_ne_streaming _)⟩

theorem State.Quiet.hashMessage (n : Nat) (hn : n ≤ s.msgSize) : (s.hashMessage n).Quiet := by
  have hsize := s.msgSize_le
  rw [s.hashMessage_spec]
  refine ⟨?_, hs.memoryOk,
    State.between_of_cleared rfl rfl rfl fun h : paddingFlag _ = _ => absurd h (paddingFlag_ne_streaming _)⟩
  simp only [BitVec.toNat_ofNat]
  omega

/-- Every command word, legal or not, leads from between two commands to a state with the invariant. -/
theorem State.Quiet.execWord_inv {t : State} (w : Word64) (h : execWord w s = .next t) : t.Inv := by
  obtain ⟨u, hu, hcases⟩ := execWord_cases w s
  obtain rfl : u = t := Host.Outcome.next.inj (hu.symm.trans h)
  rcases hcases with ⟨-, rfl⟩ | ⟨b, -, hcheck, rfl⟩ | ⟨-, -, rfl⟩ | ⟨n, -, hn, rfl⟩ | ⟨i, -, rfl⟩ | ⟨-, rfl⟩ |
    ⟨rfl | ⟨c, rfl⟩, -⟩
  · exact hs.startMessage.respond_inv _
  · exact (hs.absorbByte b hcheck).respond_inv _
  · exact hs.finishMessage.respond_inv _
  · exact (hs.hashMessage n hn).respond_inv _
  · exact hs.respond_inv _
  · exact hs.respond_inv _
  · exact hs.respond_inv _
  · exact State.Quiet.respond_inv (s := { s with err := s.err.set c }) ⟨hs.len_le, hs.memoryOk, hs.between⟩ _

end

/-! ### A block is with the engine -/

/-- At these positions the engine compresses a block, and the framer waits for it (R29). -/
def SequencerPosition.Compressing : SequencerPosition → Prop
  | .absorbBlock | .bulkBlock _ _ | .finalFirst _ | .finalLast _ => True
  | .idle | .accepted _ | .readMsg _ _ => False

/-- What holds during a compression does not depend on what the engine's steps change. -/
theorem State.InProgress.engine {s : State} (hs : s.InProgress) (hc : s.pos.Compressing) (h : Words8) (e : Engine)
    (d : Nat) : { s with h := h, engine := e, draw := d }.InProgress := by
  unfold State.InProgress at *
  cases hpos : s.pos <;> simp only [hpos, SequencerPosition.Compressing] at hc hs ⊢ <;> exact hs

/-- The engine runs only where the framer waits for it. -/
theorem State.InProgress.compressing {s : State} (hs : s.InProgress) (he : s.engine.phase ≠ .idle) :
    s.pos.Compressing := by
  unfold State.InProgress at hs
  cases hpos : s.pos with
  | idle => simp only [hpos] at hs
  | accepted w => simp only [hpos] at hs; exact he hs.1
  | readMsg n a => simp only [hpos] at hs; exact he hs.2.1
  | absorbBlock | bulkBlock n a | finalFirst bulk | finalLast bulk => trivial

/-- A block is handed to the engine (R78). -/
theorem State.Running.startEngine_inv {s : State} (hs : s.Running) (hc : s.pos.Compressing) (hprog : s.InProgress) :
    s.startEngine.Inv :=
  State.Running.inv ⟨hs.busy, hs.len_le, hs.memoryOk, hs.rspPending⟩ (Engine.counterOk_of_phase (.inr rfl))
    (hprog.engine hc s.h _ s.draw)

/-- The engine's steps keep the round counter in its range (R28, R78). -/
theorem State.engineStep_counterOk {s : State} (hs : s.engine.CounterOk) : s.engineStep.engine.CounterOk := by
  obtain ⟨hround, -⟩ := hs
  cases he : s.engine.phase with
  | idle => exact Engine.counterOk_of_phase (.inl (by simp [State.engineStep, he]))
  | load =>
    rw [s.engineStep_load he]
    exact ⟨fun _ => Nat.zero_lt_succ 63, fun h => nomatch h⟩
  | round =>
    obtain ⟨ht, hphase⟩ := engineRound_counter s.engine (hround he)
    have hlt := hround he
    rw [s.engineStep_round he]
    show (engineRound s.engine).CounterOk
    unfold Engine.CounterOk
    rw [ht, hphase]
    split <;> simp <;> omega
  | add =>
    rw [s.engineStep_add he]
    exact Engine.counterOk_of_phase (.inl rfl)

/-- The engine's steps keep the invariant (R78). -/
theorem State.engineStep_inv {s : State} (hs : s.Inv) (hb : s.busy = true) (he : s.engine.phase ≠ .idle) :
    s.engineStep.Inv := by
  obtain ⟨hrun, hcounter, hprog⟩ := State.running_of_inv hs hb
  obtain ⟨h, e, d, heq⟩ := s.engineStep_frame
  have hcounter := State.engineStep_counterOk hcounter
  rw [heq] at hcounter ⊢
  exact State.Running.inv (hrun.congr rfl rfl rfl rfl rfl) hcounter
    (hprog.engine (hprog.compressing he) h e d)

/-! ### The framer's actions -/

section
variable {s t : State}

/-- The final blocks of FINISH and HASH_MEM are begun (R83). MSG_SIZE is unfolded so that the two states' MA_W are
compared, not the states. -/
theorem State.Running.beginFinal_inv (hs : s.Running) (bulk : Option Nat) (herr : s.err = noErrors)
    (hbulk : bulk.isSome → s.len.toNat ≤ s.msgSize) : (s.beginFinal bulk).Inv := by
  unfold State.msgSize at hbulk
  unfold State.beginFinal
  split
  all_goals
    exact State.Running.startEngine_inv (hs.congr rfl rfl rfl rfl rfl) trivial ⟨by simp, herr, hbulk⟩

/-- What the first framer action of an accepted word can do: it hands a block to the engine, opens the message of a
HASH_MEM, or does the word whole (R100). -/
theorem State.beginCommand_cases {w : Word64} (h : s.beginCommand w = .next t) :
    (∃ b, s.absorbCheck = .perform ∧ s.idx.val + 1 = 64 ∧ t = s.beginAbsorbBlock b) ∨
      (s.finishCheck = .perform ∧ t = s.beginFinal none) ∨
      (∃ n, n ≤ s.msgSize ∧ t = { s.startMessage with pos := .readMsg n 0 }) ∨ execWord w s = .next t := by
  unfold State.beginCommand at h
  split at h
  case h_1 b _ =>
    split at h
    case isTrue hc => exact .inl ⟨b, hc.1, hc.2, (Host.Outcome.next.inj h).symm⟩
    case isFalse => exact .inr (.inr (.inr h))
  case h_2 =>
    split at h
    case isTrue hc => exact .inr (.inl ⟨hc, (Host.Outcome.next.inj h).symm⟩)
    case isFalse => exact .inr (.inr (.inr h))
  case h_3 n _ =>
    split at h
    case isTrue hc => exact .inr (.inr (.inl ⟨n, (s.hashCheck_perform n).1 hc, (Host.Outcome.next.inj h).symm⟩))
    case isFalse => exact .inr (.inr (.inr h))
  case h_4 => exact .inr (.inr (.inr h))

/-- The byte of an ABSORB completes a block, which the engine is to compress (R82). -/
theorem State.Running.beginAbsorbBlock_inv (hs : s.Running) (hbetween : s.Between) (b : Byte)
    (hcheck : s.absorbCheck = .perform) (hi : s.idx.val + 1 = 64) : (s.beginAbsorbBlock b).Inv := by
  have hquiet : s.Quiet := ⟨hs.len_le, hs.memoryOk, hbetween⟩
  obtain ⟨herr, hf, -⟩ := s.absorbCheck_perform.1 hcheck
  have hlen := State.len_lt_of_absorbCheck hs.len_le hcheck
  have hmod := hquiet.storeByte_len_mod b hf hlen hi
  have hidx : (s.storeByte b).idx.val = 0 := by rw [State.storeByte_idx_val, hi]
  have hle : (s.storeByte b).len.toNat ≤ 2 ^ 61 - 1 := by rw [s.storeByte_len_toNat b hlen]; exact hlen
  exact State.Running.startEngine_inv ⟨hs.busy, hle, hs.memoryOk, hs.rspPending⟩ trivial ⟨hf, hidx, hmod, herr⟩

/-- The first framer action of an accepted word keeps the invariant (R51, R100). -/
theorem State.Running.beginCommand_inv (hs : s.Running) (hbetween : s.Between) (w : Word64)
    (h : s.beginCommand w = .next t) : t.Inv := by
  have hquiet : s.Quiet := ⟨hs.len_le, hs.memoryOk, hbetween⟩
  obtain ⟨b, hcheck, hi, rfl⟩ | ⟨hcheck, rfl⟩ | ⟨n, hn, rfl⟩ | hword := State.beginCommand_cases h
  · exact hs.beginAbsorbBlock_inv hbetween b hcheck hi
  · exact hs.beginFinal_inv none (s.finishCheck_perform.1 hcheck).1 (by simp)
  · have hstart := hquiet.startMessage
    exact State.Running.inv ⟨hs.busy, hstart.len_le, hs.memoryOk, hs.rspPending⟩
      (Engine.counterOk_of_phase (.inl hbetween.1)) ⟨⟨Nat.zero_le n, hn, rfl, rfl, rfl⟩, hstart.between⟩
  · exact hquiet.execWord_inv w hword

/-- The framer's actions, which the engine's IDLE lets it do (R82, R83, R87). -/
theorem State.framerStep_inv (hs : s.Inv) (hb : s.busy = true) (he : s.engine.phase = .idle)
    (h : s.framerStep = .next t) : t.Inv := by
  obtain ⟨hrun, hcounter, hprog⟩ := State.running_of_inv hs hb
  have hlen := hrun.len_le
  have hmem := hrun.memoryOk
  unfold State.framerStep at h
  unfold State.InProgress at hprog
  cases hpos : s.pos with
  | idle => simp only [hpos] at hprog
  | accepted w =>
    simp only [hpos] at h hprog
    exact hrun.beginCommand_inv hprog w h
  | absorbBlock =>
    simp only [hpos] at h hprog
    obtain ⟨-, -, hmod, -⟩ := hprog
    cases h
    refine State.Quiet.respondStatus_inv ⟨hlen, hmem, ?_⟩
    exact State.between_of_cleared he rfl rfl fun _ => hmod
  | readMsg n a =>
    simp only [hpos] at h hprog
    obtain ⟨⟨ha, hn, hla, -, herr⟩, -⟩ := hprog
    cases h
    split
    · exact hs
    · exact hrun.beginFinal_inv (some n) herr fun _ => by omega
  | bulkBlock n a =>
    simp only [hpos] at h hprog
    obtain ⟨hbulk, -, hmod⟩ := hprog
    obtain ⟨-, -, hla, -⟩ := id hbulk
    cases h
    exact State.Running.inv (hrun.congr rfl rfl rfl rfl rfl) hcounter
      ⟨hbulk, State.between_of_cleared he rfl rfl fun _ => by rw [hla]; exact hmod⟩
  | finalFirst bulk =>
    simp only [hpos] at h hprog
    obtain ⟨hf, herr, hbulk⟩ := hprog
    unfold State.msgSize at hbulk
    cases h
    exact State.Running.startEngine_inv (hrun.congr rfl rfl rfl rfl rfl) trivial ⟨by simp [hf], herr, hbulk⟩
  | finalLast bulk =>
    simp only [hpos] at h hprog
    obtain ⟨hf, -, -⟩ := hprog
    cases h
    refine State.Quiet.respondStatus_inv ?_
    cases bulk <;> exact ⟨hlen, hmem, State.between_of_cleared he rfl rfl fun h => absurd h hf⟩

end

/-! ### What an answer of the memory and a clock edge can do -/

/-- The memory's answer gives the byte that a HASH_MEM in progress waits for, or nothing happens (R43, R50). -/
theorem State.memReply_cases {s t : State} (h : s.memReply = .next t) :
    t = s ∨ ∃ n a, s.pos = .readMsg n a ∧ s.busy = true ∧ s.engine.phase = .idle ∧ a < n ∧
      t = s.takeMsgByte n a (s.memRead a) := by
  unfold State.memReply at h
  split at h
  case h_1 a n a' hreq hpos =>
    obtain ⟨n', hpos', hb, he, ha⟩ := State.msgRequest_some hreq
    obtain ⟨rfl, rfl⟩ : n = n' ∧ a' = a := by simpa [hpos] using hpos'
    split at h
    · exact .inr ⟨n, a', hpos, hb, he, ha, (Host.Outcome.next.inj h).symm⟩
    · cases h
  case h_2 => exact .inl (Host.Outcome.next.inj h).symm

/-- What the block does at a rising edge, said once: it is reset, stays as it is, has its response taken, takes a byte
of MSG, or accepts the presented word (R50 to R52, R109). -/
theorem State.blockEdge_cases {s t : State} {p : PortIn} (h : s.blockEdge p = .next t) :
    (p.rst = true ∧ t = s.resetBlock) ∨ t = s ∨ (s.rspPending = true ∧ t = s.takeResponse) ∨ s.memReply = .next t ∨
      (s.busy = false ∧ s.rspPending = false ∧ t = s.accept p.cmdData) := by
  unfold State.blockEdge at h
  split at h
  case isTrue hrst => exact .inl ⟨hrst, (Host.Outcome.next.inj h).symm⟩
  split at h
  case isTrue hp =>
    have h := Host.Outcome.next.inj h
    split at h
    · exact .inr (.inr (.inl ⟨hp, h.symm⟩))
    · exact .inr (.inl h.symm)
  case isFalse hp =>
  split at h
  case isTrue hb =>
    split at h
    · exact .inr (.inr (.inr (.inl h)))
    · exact .inr (.inl (Host.Outcome.next.inj h).symm)
  case isFalse hb =>
    have h := Host.Outcome.next.inj h
    split at h
    · exact .inr (.inr (.inr (.inr ⟨by simpa using hb, by simpa using hp, h.symm⟩)))
    · exact .inr (.inl h.symm)

/-! ### The steps -/

section
variable {s t : State}

/-- HASH_MEM takes a byte of MSG (R82, R87). -/
theorem State.takeMsgByte_inv (hs : s.Inv) (n a : Nat) (hpos : s.pos = .readMsg n a) (hb : s.busy = true) (ha : a < n)
    (byte : Byte) : (s.takeMsgByte n a byte).Inv := by
  obtain ⟨hrun, hcounter, hprog⟩ := State.running_of_inv hs hb
  simp only [State.InProgress, hpos] at hprog
  obtain ⟨⟨-, hn, hla, hf, herr⟩, hbetween⟩ := hprog
  have hquiet : s.Quiet := ⟨hrun.len_le, hrun.memoryOk, hbetween⟩
  have hsize := s.msgSize_le
  have hlen : s.len.toNat < 2 ^ 61 - 1 := by omega
  have hlen' := s.storeByte_len_toNat byte hlen
  have hrun' : (s.storeByte byte).Running :=
    ⟨by simpa using hb, by omega, State.memoryOk_congr hrun.memoryOk (by simp) (by simp),
      by simpa using hrun.rspPending⟩
  have hbulk : (s.storeByte byte).BulkOk n (a + 1) := ⟨ha, hn, by omega, hf, herr⟩
  unfold State.takeMsgByte
  split
  case isTrue hi =>
    have hmod := hquiet.storeByte_len_mod byte hf hlen hi
    have hidx : (s.storeByte byte).idx.val = 0 := by rw [State.storeByte_idx_val, hi]
    exact State.Running.startEngine_inv (hrun'.congr rfl rfl rfl rfl rfl) trivial ⟨hbulk, hidx, by omega⟩
  case isFalse hi =>
    exact State.Running.inv (hrun'.congr rfl rfl rfl rfl rfl) hcounter
      ⟨hbulk, hbetween.storeByte byte hf hlen hi⟩

theorem State.memReply_inv (hs : s.Inv) (h : s.memReply = .next t) : t.Inv := by
  obtain rfl | ⟨n, a, hpos, hb, -, ha, rfl⟩ := State.memReply_cases h
  · exact hs
  · exact State.takeMsgByte_inv hs n a hpos hb ha _

theorem State.workStep_inv (hs : s.Inv) (h : s.workStep = .next t) : t.Inv := by
  unfold State.workStep at h
  split at h
  case isTrue hb =>
    split at h
    case isTrue he => exact State.framerStep_inv hs hb he h
    case isFalse he => cases h; exact State.engineStep_inv hs hb he
  case isFalse => cases h; exact hs

/-- A pending response is taken: no command is in progress then (R52). -/
theorem State.takeResponse_inv (hs : s.Inv) (hp : s.rspPending = true) : s.takeResponse.Inv := by
  have hb : s.busy = false := by
    obtain ⟨-, -, hone, -⟩ := hs
    simpa [hp] using hone
  obtain ⟨hquiet, hpos⟩ := State.quiet_of_inv hs hb
  exact State.Quiet.inv ⟨hquiet.len_le, hquiet.memoryOk, hquiet.between⟩ hb hpos

theorem State.settle_inv (hs : s.Inv) (h : s.settle = .next t) : t.Inv := by
  unfold State.settle at h
  split at h
  case isTrue hp => cases h; exact State.takeResponse_inv hs hp
  split at h
  · exact State.memReply_inv hs h
  · exact State.workStep_inv hs h

/-- Reset gives the invariant from every state whose memory is in canonical form (R31). -/
theorem State.resetBlock_inv (hmem : s.MemoryOk) : s.resetBlock.Inv :=
  State.Quiet.inv ⟨Nat.zero_le _, hmem, State.between_of_cleared rfl rfl rfl fun _ => rfl⟩ rfl rfl

/-- An accepted word waits for its checks with what held between the commands (R51). -/
theorem State.accept_inv (hs : s.Inv) (hb : s.busy = false) (hp : s.rspPending = false) (w : Word64) :
    (s.accept w).Inv := by
  obtain ⟨hquiet, -⟩ := State.quiet_of_inv hs hb
  exact State.Running.inv ⟨rfl, hquiet.len_le, hquiet.memoryOk, hp⟩
    (Engine.counterOk_of_phase (.inl hquiet.between.1)) hquiet.between

theorem State.blockEdge_inv (hs : s.Inv) (p : PortIn) (h : s.blockEdge p = .next t) : t.Inv := by
  obtain ⟨-, rfl⟩ | rfl | ⟨hp, rfl⟩ | hreply | ⟨hb, hp, rfl⟩ := State.blockEdge_cases h
  · obtain ⟨-, hmem, -⟩ := hs
    exact State.resetBlock_inv hmem
  · exact hs
  · exact State.takeResponse_inv hs hp
  · exact State.memReply_inv hs hreply
  · exact State.accept_inv hs hb hp _

/-- The host's write keeps MSG in canonical form and changes nothing else (R33). -/
theorem State.hostWrite_inv (hs : s.Inv) (a : Nat) (byte : Byte) (h : s.hostWrite a byte = .next t) : t.Inv := by
  obtain ⟨hlen, ⟨hwf, hwithin⟩, hrest⟩ := hs
  obtain ⟨-, heq⟩ | ⟨-, heq⟩ | ⟨-, heq⟩ | ⟨ha, -, -, heq⟩ := s.hostWrite_cases a byte
  all_goals
    rw [heq] at h
    cases h
  exact ⟨hlen, ⟨Memory.write_wf _ _ _ hwf, Memory.write_within _ _ _ _ ha hwithin⟩, hrest⟩

/-- The host's side of the ports is no part of the invariant. -/
theorem State.Inv.host (hs : s.Inv) (es : List Event) (o : Option Word64) :
    { s with events := es, offered := o }.Inv := hs

end

/-- Every word, legal or not, is answered (R52). -/
theorem execWord_rspPending {w : Word64} {s t : State} (h : execWord w s = .next t) : t.rspPending = true := by
  obtain ⟨u, hu, hcases⟩ := execWord_cases w s
  obtain rfl : u = t := Host.Outcome.next.inj (hu.symm.trans h)
  rcases hcases with ⟨-, rfl⟩ | ⟨b, -, -, rfl⟩ | ⟨-, -, rfl⟩ | ⟨n, -, -, rfl⟩ | ⟨i, -, rfl⟩ | ⟨-, rfl⟩ |
    ⟨rfl | ⟨c, rfl⟩, -⟩ <;> rfl

/-- A transaction of a ready block: its word is done and the response is taken (R7, R51, R52). -/
theorem State.taken_execWord_inv {s t : State} (hs : s.Inv) (hready : s.ready = true) (w : Word64)
    (h : taken (execWord w s) = .next t) : t.Inv := by
  obtain ⟨hb, -⟩ := s.ready_iff.1 hready
  obtain ⟨hquiet, -⟩ := State.quiet_of_inv hs hb
  obtain ⟨u, hu, -⟩ := execWord_cases w s
  rw [hu] at h
  obtain rfl : u.takeResponse = t := Host.Outcome.next.inj h
  exact State.takeResponse_inv (hquiet.execWord_inv w hu) (execWord_rspPending hu)

/-- Settles O58: after reset no command is in progress, and the message is the empty one. -/
theorem resetMeetsTheInvariant : Obligations.ResetMeetsTheInvariant := fun m =>
  State.resetBlock_inv (State.reset_memoryOk m)

/-- Settles O59: each event by the lemma of its kind of step. -/
theorem stepKeepsTheInvariant : Obligations.StepKeepsTheInvariant := by
  intro s t hs h
  unfold step at h
  split at h
  case h_1 => exact State.workStep_inv hs h
  case h_2 e rest hev =>
    cases e with
    | transact w =>
      unfold State.applyEvent at h
      dsimp only at h
      split at h
      case isTrue hready => exact State.taken_execWord_inv (hs.host rest none) hready w h
      case isFalse => exact State.settle_inv hs h
    | edge p => exact State.blockEdge_inv (hs.host rest _) p h
    | work => exact State.workStep_inv (hs.host rest s.offered) h
    | writeMsg a byte => exact State.hostWrite_inv (hs.host rest s.offered) a byte h

end Sys2Proof.Machine

/-! PROOFS. The visible state: reset, STATUS, and what the command words do to the error bits, to H and to the message
(R16, R20 to R31). -/

namespace Sys2Proof.Machine

/-! ### Reset and the edges -/

/-- Settles O17: each value as the reset state gives it. -/
theorem resetLeavesTheStatedValues : Obligations.ResetLeavesTheStatedValues := by
  intro m
  refine ⟨rfl, fun j hj => ?_, rfl, rfl, rfl, rfl, State.status_open _ rfl rfl, rfl, rfl, rfl⟩
  exact Vector.getElem_replicate hj

/-- Settles O18: at an edge with rst = 1 the block is reset, whatever it was doing. -/
theorem resetEdgeAborts : Obligations.ResetEdgeAborts := by
  intro s p hrst
  have hedge : s.clockEdge p = .next (s.present p).resetBlock := if_pos hrst
  exact ⟨⟨_, hedge, rfl, rfl⟩, rfl, rfl, rfl⟩

/-- Settles O21: INIT gives H, BUF, IDX, LEN, FLAG and the error bits their reset values and leaves the IDLE engine. -/
theorem initLeavesTheResetState : Obligations.InitLeavesTheResetState := by
  intro s t he h
  obtain rfl : s.startMessage.respondStatus = t := Host.Outcome.next.inj h
  exact ⟨rfl, rfl, rfl, rfl, rfl, rfl, rfl, he, rfl⟩

/-- A byte taken from MSG leaves RSP_DATA. -/
theorem State.takeMsgByte_rspData (s : State) (n a : Nat) (b : Byte) : (s.takeMsgByte n a b).rspData = s.rspData := by
  unfold State.takeMsgByte
  split <;> simp

/-- Settles O51: of what an edge can do, only the reset writes RSP_DATA. -/
theorem responseWordStays : Obligations.ResponseWordStays := by
  intro s t p hrst h
  have hdata : (s.present p).rspData = s.rspData := s.present_rspData p
  obtain ⟨h, -⟩ | rfl | ⟨-, rfl⟩ | hreply | ⟨-, -, rfl⟩ := State.blockEdge_cases h
  · simp [hrst] at h
  · exact hdata
  · exact hdata
  · obtain rfl | ⟨n, a, -, -, -, -, rfl⟩ := State.memReply_cases hreply
    · exact hdata
    · exact (State.takeMsgByte_rspData _ n a _).trans hdata
  · exact hdata

/-! ### STATUS -/

theorem append_toNat {m n : Nat} (x : BitVec m) (y : BitVec n) : (x ++ y).toNat = 2 ^ n * x.toNat + y.toNat := by
  rw [BitVec.toNat_append, ← Nat.shiftLeft_add_eq_or_of_lt y.isLt, Nat.shiftLeft_eq, Nat.mul_comm]

/-- ERR as a number: each bit at its place (R24). -/
theorem ErrorBits.bits_toNat (e : ErrorBits) :
    e.bits.toNat = 8 * e.range.toNat + 4 * e.len.toNat + 2 * e.seq.toNat + e.cmd.toNat := by
  simp only [ErrorBits.bits, append_toNat, BitVec.toNat_ofBool]
  omega

/-- STATUS as a number: each field at its place (R25). -/
theorem State.status_toNat (s : State) :
    s.status.toNat = 2 ^ 16 * s.err.bits.toNat + 2 ^ 3 * s.idx.val + 2 * s.flag.bits.toNat + s.done.toNat := by
  have hidx := s.idx.isLt
  have herr := s.err.bits.isLt
  have hflag := s.flag.bits.isLt
  have hdone := Bool.toNat_lt s.done
  simp only [State.status, BitVec.toNat_setWidth, append_toNat, BitVec.toNat_ofBool, BitVec.toNat_ofNat]
  omega

/-- A bit as a number read off a word. -/
theorem getLsbD_eq_of_toNat {w : Word64} {i : Nat} {b : Bool} (h : w.toNat / 2 ^ i % 2 = b.toNat) :
    w.getLsbD i = b := by
  rw [← BitVec.testBit_toNat, Nat.testBit_eq_decide_div_mod_eq, h]
  cases b <;> rfl

/-- A field as a number read off a word. -/
theorem extractLsb'_eq_of_toNat {w : Word64} {i n : Nat} {x : BitVec n} (h : w.toNat / 2 ^ i % 2 ^ n = x.toNat) :
    w.extractLsb' i n = x := by
  apply BitVec.eq_of_toNat_eq
  rw [BitVec.extractLsb'_toNat, Nat.shiftRight_eq_div_pow, h]

/-- Settles O19: each field read off STATUS as a number. -/
theorem statusLayout : Obligations.StatusLayout := by
  intro s
  have hstatus := s.status_toNat
  have herr := s.err.bits_toNat
  have hidx := s.idx.isLt
  have hflag := s.flag.bits.isLt
  have hdone := Bool.toNat_lt s.done
  have hcmd := Bool.toNat_lt s.err.cmd
  have hseq := Bool.toNat_lt s.err.seq
  have hlen := Bool.toNat_lt s.err.len
  have hrange := Bool.toNat_lt s.err.range
  have hflags : s.status.extractLsb' 1 2 = s.flag.bits := extractLsb'_eq_of_toNat (by omega)
  have hindex : s.status.extractLsb' 3 6 = BitVec.ofNat 6 s.idx.val :=
    extractLsb'_eq_of_toNat (by rw [BitVec.toNat_ofNat]; omega)
  refine ⟨?_, ?_, ?_, ?_, ?_, ?_, ?_, ?_, ?_⟩
  · exact getLsbD_eq_of_toNat (b := s.done) (by omega)
  · rw [hflags]
    cases s.flag <;> rfl
  · rw [hindex, BitVec.toNat_ofNat]
    omega
  · exact extractLsb'_eq_of_toNat (x := 0#7) (by rw [BitVec.toNat_zero]; omega)
  · exact getLsbD_eq_of_toNat (by omega)
  · exact getLsbD_eq_of_toNat (by omega)
  · exact getLsbD_eq_of_toNat (by omega)
  · exact getLsbD_eq_of_toNat (by omega)
  · exact extractLsb'_eq_of_toNat (x := 0#44) (by rw [BitVec.toNat_zero]; omega)

/-! ### The error bits -/

/-- Settles O32: the check of LEN is the one that fails. -/
theorem fullLengthRaisesErrLen : Obligations.FullLengthRaisesErrLen := by
  intro s byte herr hf hlen
  have hmax : s.len = Config.lenMax := BitVec.eq_of_toNat_eq hlen
  have hcheck : s.absorbCheck = .error .len := by simp [State.absorbCheck, ErrorBits.any, herr, hf, hmax]
  have hexec : exec (.absorb byte) s = .next (s.raise .len) := by
    simp only [exec, execAbsorb, hcheck, State.guarded]
  refine ⟨_, hexec, ?_⟩
  cases s
  subst herr
  rfl

/-- What a word does to the error bits: a legal INIT and a HASH_MEM in range clear them, every other word leaves them or
sets one (R24, R97, R99). -/
theorem execWord_err {w : Word64} {s t : State} (h : execWord w s = .next t) :
    ((decode w = .ok .init ∨ ∃ n, decode w = .ok (.hashMem n) ∧ n ≤ s.msgSize) ∧ t.err = noErrors) ∨
      (¬(decode w = .ok .init ∨ ∃ n, decode w = .ok (.hashMem n) ∧ n ≤ s.msgSize) ∧
        (t.err = s.err ∨ ∃ c, t.err = s.err.set c)) := by
  obtain ⟨u, hu, hcases⟩ := execWord_cases w s
  obtain rfl : u = t := Host.Outcome.next.inj (hu.symm.trans h)
  rcases hcases with ⟨hw, rfl⟩ | ⟨b, hw, -, rfl⟩ | ⟨hw, -, rfl⟩ | ⟨n, hw, hn, rfl⟩ | ⟨i, hw, rfl⟩ | ⟨hw, rfl⟩ |
    ⟨hu, hinit, -, -, hhash⟩
  · exact .inl ⟨.inl hw, rfl⟩
  · obtain ⟨h, buf, idx, e, heq, -⟩ := s.absorbByte_spec b
    exact .inr ⟨by simp [hw], .inl (by rw [heq]; rfl)⟩
  · obtain ⟨ms, -, heq⟩ := s.finishMessage_spec
    exact .inr ⟨by simp [hw], .inl (by rw [heq]; rfl)⟩
  · exact .inl ⟨.inr ⟨n, hw, hn⟩, rfl⟩
  · exact .inr ⟨by simp [hw], .inl rfl⟩
  · exact .inr ⟨by simp [hw], .inl rfl⟩
  · refine .inr ⟨?_, ?_⟩
    · rintro (hw | ⟨n, hw, hn⟩)
      · exact hinit hw
      · exact hhash n hw hn
    · obtain rfl | ⟨c, rfl⟩ := hu
      · exact .inl rfl
      · exact .inr ⟨c, rfl⟩

/-- Settles O35: a word that leaves the error bits or sets one clears none. -/
theorem errorsAreCleared : Obligations.ErrorsAreCleared := by
  intro w s t h
  obtain ⟨hw, herr⟩ | ⟨hw, herr⟩ := execWord_err h
  · exact ⟨fun _ => hw, fun _ => herr⟩
  · refine ⟨fun hclear => ?_, fun hw' => absurd hw' hw⟩
    obtain herr | ⟨c, herr⟩ := herr
    · simp [herr] at hclear
    · cases c <;> simp [herr, ErrorBits.set] at hclear

/-! ### H -/

/-- Settles O37: of the words that are performed, four write H. -/
theorem digestStateIsWrittenOnlyBy : Obligations.DigestStateIsWrittenOnlyBy := by
  intro w s t h hne
  obtain ⟨u, hu, hcases⟩ := execWord_cases w s
  obtain rfl : u = t := Host.Outcome.next.inj (hu.symm.trans h)
  rcases hcases with ⟨hw, rfl⟩ | ⟨b, hw, hcheck, rfl⟩ | ⟨hw, hcheck, rfl⟩ | ⟨n, hw, hn, rfl⟩ | ⟨i, -, rfl⟩ | ⟨-, rfl⟩ |
    ⟨rfl | ⟨c, rfl⟩, -⟩
  · exact .inl ⟨hw, rfl⟩
  · obtain ⟨herr, hf, hlen⟩ := s.absorbCheck_perform.1 hcheck
    obtain ⟨h', buf, idx, e, heq, -, -, hpart, hfull⟩ := s.absorbByte_spec b
    rw [State.respondStatus_h, heq] at hne
    have hi : s.idx.val + 1 = 64 := by
      by_contra hi
      exact hne (hpart hi).1
    have hi' : s.idx.val = 63 := by omega
    refine .inr (.inr (.inl ⟨b, hw, hi', hf, herr, hlen, ?_⟩))
    obtain ⟨rfl, -⟩ := hfull hi
    rw [State.respondStatus_h, heq]
    simp only [hi']
  · obtain ⟨herr, hf⟩ := s.finishCheck_perform.1 hcheck
    obtain ⟨ms, hms, heq⟩ := s.finishMessage_spec
    refine .inr (.inr (.inr ⟨hw, hf, herr, ?_⟩))
    rw [State.respondStatus_h, heq, hms]
    split <;> rfl
  · refine .inr (.inl ⟨n, hw, hn, ?_⟩)
    rw [State.respondStatus_h, State.hashMessage_spec]
    rfl
  · exact absurd rfl hne
  · exact absurd rfl hne
  · exact absurd rfl hne
  · exact absurd rfl hne

/-! ### The hidden engine state -/

/-- The hidden engine state and the draw number hold something else (R26 to R28). -/
def State.withHidden (s : State) (e : Engine) (d : Nat) : State := { s with engine := e, draw := d }

theorem State.withHidden_absorbByte (s : State) (e : Engine) (d : Nat) (b : Byte) :
    ∃ e' d', (s.withHidden e d).absorbByte b = (s.absorbByte b).withHidden e' d' := by
  by_cases hi : s.idx.val + 1 = 64
  · rw [State.absorbByte_full s b hi, State.absorbByte_full (s.withHidden e d) b hi]
    exact ⟨releasedEngine d, d + 1, rfl⟩
  · rw [State.absorbByte_part s b hi, State.absorbByte_part (s.withHidden e d) b hi]
    exact ⟨e, d, rfl⟩

theorem State.withHidden_finishMessage (s : State) (e : Engine) (d : Nat) :
    ∃ e' d', (s.withHidden e d).finishMessage = s.finishMessage.withHidden e' d' := by
  obtain ⟨ms, hms, hs⟩ := s.finishMessage_spec
  obtain ⟨ms', hms', ht⟩ := (s.withHidden e d).finishMessage_spec
  obtain rfl : ms' = ms := hms'.trans hms.symm
  rw [hs, ht]
  exact ⟨_, _, rfl⟩

theorem State.withHidden_hashMessage (s : State) (e : Engine) (d n : Nat) :
    ∃ e' d', (s.withHidden e d).hashMessage n = (s.hashMessage n).withHidden e' d' := by
  rw [State.hashMessage_spec, State.hashMessage_spec]
  exact ⟨_, _, rfl⟩

/-- A guarded command answers alike but for the hidden state, where its effects `t` and `u` are alike but for it. -/
theorem State.withHidden_guarded (s t u : State) (e : Engine) (d : Nat) (v : Verdict)
    (hu : ∃ e' d', u = t.withHidden e' d') :
    ∃ e' d', (s.withHidden e d).guarded v u.respondStatus = (s.guarded v t.respondStatus).withHidden e' d' := by
  cases v with
  | perform =>
    obtain ⟨e', d', rfl⟩ := hu
    exact ⟨e', d', rfl⟩
  | gated => exact ⟨e, d, rfl⟩
  | error c => exact ⟨e, d, rfl⟩

/-- A command does the same to all but the hidden state, whatever that holds. -/
theorem exec_withHidden (i : Instr) (s : State) (e : Engine) (d : Nat) :
    ∃ t e' d', exec i s = .next t ∧ exec i (s.withHidden e d) = .next (t.withHidden e' d') := by
  cases i with
  | init | rdDigest i | rdStatus | rdLen => exact ⟨_, e, d, rfl, rfl⟩
  | absorb b =>
    obtain ⟨e', d', h⟩ := s.withHidden_guarded _ _ e d s.absorbCheck (s.withHidden_absorbByte e d b)
    exact ⟨_, e', d', rfl, congrArg Host.Outcome.next h⟩
  | finish =>
    obtain ⟨e', d', h⟩ := s.withHidden_guarded _ _ e d s.finishCheck (s.withHidden_finishMessage e d)
    exact ⟨_, e', d', rfl, congrArg Host.Outcome.next h⟩
  | hashMem n =>
    obtain ⟨e', d', h⟩ := s.withHidden_guarded _ _ e d (s.hashCheck n) (s.withHidden_hashMessage e d n)
    exact ⟨_, e', d', rfl, congrArg Host.Outcome.next h⟩

/-- Settles O38: so does an illegal word, which only raises its error. -/
theorem hiddenStateIsNotRead : Obligations.HiddenStateIsNotRead := by
  intro w s e d
  cases hw : decode w with
  | error r =>
    exact ⟨_, _, execWord_of_reject s hw, execWord_of_reject (s.withHidden e d) hw, rfl⟩
  | ok i =>
    obtain ⟨t, e', d', ht, ht'⟩ := exec_withHidden i s e d
    exact ⟨t, t.withHidden e' d', (execWord_of_decode s hw).trans ht,
      (execWord_of_decode (s.withHidden e d) hw).trans ht', rfl⟩

/-! ### The message -/

/-- The buffer of an open message is zero from its rest on (R30). -/
theorem zeroFrom_openBuffer (m : List Byte) : ZeroFrom (openBuffer m) (m.length % 64) := by
  intro j hj
  rw [openBuffer_getElem _ _ j.isLt]
  simp [List.getD, show m.length ≤ 64 * (m.length / 64) + j.val by omega]

/-- An open message meets R30. -/
theorem State.Absorbed.framed {s : State} {m : List Byte} (hs : s.Absorbed m) : s.Framed := by
  obtain ⟨hm, hf, -, hlen, hidx, hbuf, hh⟩ := hs
  refine ⟨m, hm, hlen, fun _ => ⟨hidx, hbuf, hh⟩, fun h => absurd hf h, ?_⟩
  rw [hbuf, hidx]
  exact zeroFrom_openBuffer m

/-- A new message has no bytes (R84). -/
theorem State.startMessage_absorbed (s : State) : s.startMessage.Absorbed [] :=
  ⟨Nat.zero_le _, rfl, rfl, rfl, rfl, (openBuffer_eq_zeroBuffer [] rfl).symm, rfl⟩

/-- `absorb_byte` appends its byte to the open message (R82). -/
theorem State.Absorbed.absorbByte {s : State} {m : List Byte} (hs : s.Absorbed m) (hm : m.length < 2 ^ 61 - 1)
    (b : Byte) : (s.absorbByte b).Absorbed (m ++ [b]) := by
  obtain ⟨-, hf, herr, hlen, hidx, hbuf, hh⟩ := hs
  obtain ⟨h, buf, idx, e, heq, hidx', -, hpart, hfull⟩ := s.absorbByte_spec b
  have hsnoc : (m ++ [b]).length = m.length + 1 := by simp
  have hhb : h = chainingValue (m ++ [b]) ∧ buf = openBuffer (m ++ [b]) := by
    simp only [hidx, hbuf, hh] at hpart hfull
    by_cases h64 : m.length % 64 + 1 = 64
    · obtain ⟨rfl, rfl, -⟩ := hfull h64
      exact ⟨(chainingValue_snoc_full m b h64).symm, (openBuffer_eq_zeroBuffer _ (by omega)).symm⟩
    · obtain ⟨rfl, rfl, -⟩ := hpart h64
      exact ⟨(chainingValue_snoc_part m b h64).symm, (openBuffer_snoc_part m b h64).symm⟩
  have hlen' : (s.len + 1).toNat = m.length + 1 := by
    rw [BitVec.toNat_add, hlen, show (1 : Word64).toNat = 1 from rfl]
    omega
  rw [heq]
  exact ⟨by omega, hf, herr, hlen'.trans hsnoc.symm, by rw [hsnoc, ← Nat.mod_add_mod, ← hidx]; exact hidx',
    hhb.2, hhb.1⟩

/-- The open message is shorter than LEN_MAX exactly when its LEN is not LEN_MAX (R21). -/
theorem State.Absorbed.length_lt_iff {s : State} {m : List Byte} (hs : s.Absorbed m) :
    m.length < 2 ^ 61 - 1 ↔ s.len ≠ Config.lenMax := by
  obtain ⟨hm, -, -, hlen, -⟩ := hs
  have hmax : Config.lenMax.toNat = 2 ^ 61 - 1 := rfl
  rw [ne_eq, ← BitVec.toNat_inj, hmax]
  omega

/-- Settles O40: ABSORB passes its checks and appends its byte. -/
theorem absorbAppendsToTheMessage : Obligations.AbsorbAppendsToTheMessage := by
  intro s m byte hs hm
  have hmax := hs.length_lt_iff.1 hm
  have happend := hs.absorbByte hm byte
  obtain ⟨-, hf, herr, -⟩ := hs
  have hcheck := s.absorbCheck_perform.2 ⟨herr, hf, hmax⟩
  refine ⟨(s.absorbByte byte).respondStatus, ?_, happend⟩
  simp only [exec, execAbsorb, hcheck, State.guarded]

/-- `finish()` leaves the digest of the open message (R83, R89). -/
theorem State.Absorbed.finishMessage_h {s : State} {m : List Byte} (hs : s.Absorbed m) :
    s.finishMessage.h = sha256 m := by
  obtain ⟨-, -, -, hlen, hidx, hbuf, hh⟩ := hs
  obtain ⟨ms, hms, heq⟩ := s.finishMessage_spec
  have hbits : s.bitLength = BitVec.ofNat 64 (8 * m.length) := by rw [State.bitLength, hlen, Nat.mul_comm]
  rw [hidx, hbuf, hbits] at hms
  have hms : ms = finalBlocks m := hms
  rw [heq, sha256_eq_finalBlocks, ← hms, ← hh]

/-- A closed message meets R30 when its digest is in H, its length in LEN, and BUF and IDX are cleared. -/
theorem State.framed_of_closed {s : State} (m : List Byte) (hm : m.length ≤ 2 ^ 61 - 1) (hlen : s.len.toNat = m.length)
    (hf : s.flag ≠ .streaming) (hidx : s.idx = 0) (hh : s.h = sha256 m) (hbuf : s.buf = zeroBuffer) : s.Framed := by
  refine ⟨m, hm, hlen, fun h => absurd h hf, fun _ => ⟨by rw [hidx]; rfl, hh⟩, ?_⟩
  rw [hbuf]
  exact zeroFrom_zeroBuffer _

/-- `finish()` closes the open message with its digest (R83). -/
theorem State.Absorbed.finishMessage_framed {s : State} {m : List Byte} (hs : s.Absorbed m) :
    s.finishMessage.Framed := by
  have hh := hs.finishMessage_h
  obtain ⟨hm, -, -, hlen, -⟩ := hs
  obtain ⟨ms, -, heq⟩ := s.finishMessage_spec
  rw [heq] at hh ⊢
  exact State.framed_of_closed m hm hlen (paddingFlag_ne_streaming _) rfl hh rfl

/-- HASH_MEM performed leaves its message closed with its digest (R87). -/
theorem State.hashMessage_framed (s : State) (n : Nat) (hn : n ≤ s.msgSize) : (s.hashMessage n).Framed := by
  have hsize := s.msgSize_le
  have hlength := s.message_length n
  have hlen : (BitVec.ofNat 64 n).toNat = n := by rw [BitVec.toNat_ofNat]; omega
  rw [s.hashMessage_spec]
  exact State.framed_of_closed (s.message n) (by omega) (hlen.trans hlength.symm) (paddingFlag_ne_streaming _)
    rfl rfl rfl

/-- R30 of an open message without errors says that the message is open. -/
theorem State.Framed.absorbed {s : State} (hs : s.Framed) (hf : s.flag = .streaming) (herr : s.err = noErrors) :
    ∃ m, s.Absorbed m := by
  obtain ⟨m, hm, hlen, hopen, -⟩ := hs
  obtain ⟨hidx, hbuf, hh⟩ := hopen hf
  exact ⟨m, hm, hf, herr, hlen, hidx, hbuf, hh⟩

/-- R30 speaks of H, BUF, IDX, LEN and FLAG alone. -/
theorem State.Framed.congr {s t : State} (hs : s.Framed) (hh : t.h = s.h) (hbuf : t.buf = s.buf) (hidx : t.idx = s.idx)
    (hlen : t.len = s.len) (hf : t.flag = s.flag) : t.Framed := by
  unfold State.Framed
  rw [hh, hbuf, hidx, hlen, hf]
  exact hs

/-- A response is no part of R30. -/
theorem State.Framed.respond {s : State} (hs : s.Framed) (v : Word64) : (s.respond v).Framed :=
  hs.congr rfl rfl rfl rfl rfl

/-- Settles O56: after reset the empty message is open. -/
theorem resetIsFramed : Obligations.ResetIsFramed := fun m =>
  (State.resetWith m).startMessage_absorbed.framed

/-- Settles O57: the word opens a message, appends to it, closes it, or leaves H, BUF, IDX, LEN and FLAG. -/
theorem everyWordKeepsTheMessageFramed : Obligations.EveryWordKeepsTheMessageFramed := by
  intro w s t hs h
  obtain ⟨u, hu, hcases⟩ := execWord_cases w s
  obtain rfl : u = t := Host.Outcome.next.inj (hu.symm.trans h)
  rcases hcases with ⟨-, rfl⟩ | ⟨b, -, hcheck, rfl⟩ | ⟨-, hcheck, rfl⟩ | ⟨n, -, hn, rfl⟩ | ⟨i, -, rfl⟩ | ⟨-, rfl⟩ |
    ⟨rfl | ⟨c, rfl⟩, -⟩
  · exact s.startMessage_absorbed.framed.respond _
  · obtain ⟨herr, hf, hlen⟩ := s.absorbCheck_perform.1 hcheck
    obtain ⟨m, hm⟩ := hs.absorbed hf herr
    exact (hm.absorbByte (hm.length_lt_iff.2 hlen) b).framed.respond _
  · obtain ⟨herr, hf⟩ := s.finishCheck_perform.1 hcheck
    obtain ⟨m, hm⟩ := hs.absorbed hf herr
    exact hm.finishMessage_framed.respond _
  · exact (s.hashMessage_framed n hn).respond _
  · exact hs.respond _
  · exact hs.respond _
  · exact hs.respond _
  · exact hs.congr rfl rfl rfl rfl rfl

end Sys2Proof.Machine

/-! PROOFS. What the host owns, MSG and MA_W among it: what command words and steps leave of it, and what the host's own
write does (R33, R43 to R47, R112, R115). -/

namespace Sys2Proof.Machine

/-! ### The host's side of a state -/

/-- What no command is to change: MSG, the width MA_W, and the host's side of the ports (R33, R112, R119). -/
structure HostSide where
  msg : List Host.Cell
  maW : Fin 57
  events : List Event
  offered : Option Word64
  responses : List Word64

/-- The host's side of a state. -/
def State.hostSide (s : State) : HostSide where
  msg := s.msg
  maW := s.maW
  events := s.events
  offered := s.offered
  responses := s.responses

theorem State.hostSide_inj {s t : State} (h : t.hostSide = s.hostSide) :
    t.msg = s.msg ∧ t.maW = s.maW ∧ t.events = s.events ∧ t.offered = s.offered ∧ t.responses = s.responses := by
  simpa [State.hostSide] using h

theorem State.memory_of_hostSide {s t : State} (h : t.hostSide = s.hostSide) : t.msg = s.msg ∧ t.maW = s.maW :=
  ⟨congrArg HostSide.msg h, congrArg HostSide.maW h⟩

@[simp] theorem State.respond_hostSide (s : State) (v : Word64) : (s.respond v).hostSide = s.hostSide := by
  cases s; rfl

@[simp] theorem State.respondStatus_hostSide (s : State) : s.respondStatus.hostSide = s.hostSide := by cases s; rfl

@[simp] theorem State.raise_hostSide (s : State) (c : ErrorCause) : (s.raise c).hostSide = s.hostSide := by
  cases s; rfl

@[simp] theorem State.startMessage_hostSide (s : State) : s.startMessage.hostSide = s.hostSide := by cases s; rfl

@[simp] theorem State.absorbByte_hostSide (s : State) (b : Byte) : (s.absorbByte b).hostSide = s.hostSide := by
  obtain ⟨h, buf, idx, e, heq, -⟩ := s.absorbByte_spec b
  rw [heq]
  rfl

@[simp] theorem State.finishMessage_hostSide (s : State) : s.finishMessage.hostSide = s.hostSide := by
  obtain ⟨ms, -, heq⟩ := s.finishMessage_spec
  rw [heq]
  rfl

@[simp] theorem State.hashMessage_hostSide (s : State) (n : Nat) : (s.hashMessage n).hostSide = s.hostSide := by
  rw [s.hashMessage_spec]
  rfl

@[simp] theorem State.closeBulk_hostSide (s : State) (bulk : Option Nat) :
    (s.closeBulk bulk).hostSide = s.hostSide := by
  cases bulk <;> rfl

@[simp] theorem State.beginAbsorbBlock_hostSide (s : State) (b : Byte) :
    (s.beginAbsorbBlock b).hostSide = s.hostSide := by
  cases s; rfl

@[simp] theorem State.beginFinal_hostSide (s : State) (bulk : Option Nat) :
    (s.beginFinal bulk).hostSide = s.hostSide := by
  unfold State.beginFinal
  split <;> simp [State.hostSide]

@[simp] theorem State.takeMsgByte_hostSide (s : State) (n a : Nat) (b : Byte) :
    (s.takeMsgByte n a b).hostSide = s.hostSide := by
  unfold State.takeMsgByte
  split <;> rfl

@[simp] theorem State.engineStep_hostSide (s : State) : s.engineStep.hostSide = s.hostSide := by
  obtain ⟨h, e, d, heq⟩ := s.engineStep_frame
  rw [heq]
  rfl

/-! ### The words and the steps of the block leave it -/

section
variable {s t : State}

/-- No command word changes what the host owns (R33). -/
theorem execWord_hostSide {w : Word64} (h : execWord w s = .next t) : t.hostSide = s.hostSide := by
  obtain ⟨u, hu, hcases⟩ := execWord_cases w s
  obtain rfl : u = t := Host.Outcome.next.inj (hu.symm.trans h)
  rcases hcases with ⟨-, rfl⟩ | ⟨b, -, -, rfl⟩ | ⟨-, -, rfl⟩ | ⟨n, -, -, rfl⟩ | ⟨i, -, rfl⟩ | ⟨-, rfl⟩ |
    ⟨rfl | ⟨c, rfl⟩, -⟩ <;> simp

theorem State.beginCommand_hostSide {w : Word64} (h : s.beginCommand w = .next t) : t.hostSide = s.hostSide := by
  obtain ⟨b, -, -, rfl⟩ | ⟨-, rfl⟩ | ⟨n, -, rfl⟩ | hword := State.beginCommand_cases h
  · simp
  · simp
  · rfl
  · exact execWord_hostSide hword

theorem State.framerStep_hostSide (h : s.framerStep = .next t) : t.hostSide = s.hostSide := by
  unfold State.framerStep at h
  cases hpos : s.pos with
  | accepted w =>
    simp only [hpos] at h
    exact State.beginCommand_hostSide h
  | readMsg n a =>
    simp only [hpos] at h
    obtain rfl := Host.Outcome.next.inj h
    split
    · rfl
    · simp
  | finalLast bulk =>
    simp only [hpos] at h
    obtain rfl := Host.Outcome.next.inj h
    rw [State.respondStatus_hostSide, State.closeBulk_hostSide]
    rfl
  | idle | absorbBlock | bulkBlock n a | finalFirst bulk =>
    simp only [hpos] at h
    obtain rfl := Host.Outcome.next.inj h
    simp [State.hostSide]

theorem State.workStep_hostSide (h : s.workStep = .next t) : t.hostSide = s.hostSide := by
  unfold State.workStep at h
  split at h
  · split at h
    · exact State.framerStep_hostSide h
    · obtain rfl := Host.Outcome.next.inj h
      exact s.engineStep_hostSide
  · obtain rfl := Host.Outcome.next.inj h
    rfl

theorem State.memReply_hostSide (h : s.memReply = .next t) : t.hostSide = s.hostSide := by
  obtain rfl | ⟨n, a, -, -, -, -, rfl⟩ := State.memReply_cases h
  · rfl
  · simp

/-- Settling may take a response; it leaves MSG and MA_W. -/
theorem State.settle_memory (h : s.settle = .next t) : t.msg = s.msg ∧ t.maW = s.maW := by
  unfold State.settle at h
  split at h
  · obtain rfl := Host.Outcome.next.inj h
    exact ⟨rfl, rfl⟩
  apply State.memory_of_hostSide
  split at h
  · exact State.memReply_hostSide h
  · exact State.workStep_hostSide h

/-- So does a clock edge, at reset too (R31, R112). -/
theorem State.blockEdge_memory {p : PortIn} (h : s.blockEdge p = .next t) : t.msg = s.msg ∧ t.maW = s.maW := by
  obtain ⟨-, rfl⟩ | rfl | ⟨-, rfl⟩ | hreply | ⟨-, -, rfl⟩ := State.blockEdge_cases h
  · exact ⟨rfl, rfl⟩
  · exact ⟨rfl, rfl⟩
  · exact ⟨rfl, rfl⟩
  · exact State.memory_of_hostSide (State.memReply_hostSide hreply)
  · exact ⟨rfl, rfl⟩

/-- So does a transaction. -/
theorem State.taken_execWord_memory {w : Word64} (h : taken (execWord w s) = .next t) :
    t.msg = s.msg ∧ t.maW = s.maW := by
  obtain ⟨u, hu, -⟩ := execWord_cases w s
  rw [hu] at h
  obtain rfl := Host.Outcome.next.inj h
  exact State.memory_of_hostSide (t := u) (execWord_hostSide hu)

/-- A host write that gives a next state writes its byte, outside every message presented or in progress (R47, R115). -/
theorem State.hostWrite_next {a : Nat} {b : Byte} (h : s.hostWrite a b = .next t) :
    (∀ n, s.hashInProgress = some n → n ≤ a) ∧ (∀ n, s.hashOffered = some n → n ≤ a) ∧
      t = { s with msg := Memory.write s.msg a b } := by
  obtain ⟨-, heq⟩ | ⟨-, heq⟩ | ⟨-, heq⟩ | ⟨-, hprogress, hoffered, heq⟩ := s.hostWrite_cases a b
  all_goals
    rw [heq] at h
    cases h
  exact ⟨hprogress, hoffered, rfl⟩

/-- What a step can do to MSG and MA_W: it leaves both, or it is the host's write to a byte of no message that is
presented or in progress (R33, R112). -/
theorem step_memory (h : step s = .next t) :
    (t.msg = s.msg ∧ t.maW = s.maW) ∨
      ∃ a b rest, s.events = .writeMsg a b :: rest ∧ (∀ n, s.hashInProgress = some n → n ≤ a) ∧
        (∀ n, s.hashOffered = some n → n ≤ a) ∧ t.msg = Memory.write s.msg a b ∧ t.maW = s.maW := by
  unfold step at h
  split at h
  case h_1 => exact .inl (State.memory_of_hostSide (State.workStep_hostSide h))
  case h_2 e rest hev =>
    cases e with
    | transact w =>
      unfold State.applyEvent at h
      dsimp only at h
      split at h
      · exact .inl (State.taken_execWord_memory (s := s.acceptTransact rest) h)
      · exact .inl (State.settle_memory h)
    | edge p => exact .inl (State.blockEdge_memory (s := State.present { s with events := rest } p) h)
    | work => exact .inl (State.memory_of_hostSide (s := { s with events := rest }) (State.workStep_hostSide h))
    | writeMsg a b =>
      obtain ⟨hprogress, hoffered, rfl⟩ := State.hostWrite_next h
      exact .inr ⟨a, b, rest, hev, hprogress, hoffered, rfl, rfl⟩

end

/-- Settles O48: of the steps, only the host's write does anything to MSG or MA_W. -/
theorem onlyTheHostWritesMsg : Obligations.OnlyTheHostWritesMsg := by
  intro s t h
  obtain ⟨hmsg, hmaW⟩ | ⟨a, b, rest, hev, -, -, hmsg, hmaW⟩ := step_memory h
  · exact ⟨hmaW, .inl hmsg⟩
  · exact ⟨hmaW, .inr ⟨a, b, rest, hev, hmsg⟩⟩

/-- Settles O47: a write of the host lies above the message, and leaves its bytes as they are. -/
theorem messageIsStableOnceItIsPresented : Obligations.MessageIsStableOnceItIsPresented := by
  rintro s t n a ⟨hwf, -⟩ h hhash ha
  obtain ⟨hmsg, -⟩ | ⟨a', b, rest, -, hprogress, hoffered, hmsg, -⟩ := step_memory h
  · rw [hmsg]
  · have habove : n ≤ a' := hhash.elim (hoffered n) (hprogress n)
    rw [hmsg, Memory.lookup_write _ _ _ _ hwf, if_neg (by omega)]

/-! ### The host's write -/

/-- A write to a byte of MSG that is in no message presented or in progress is performed (R33, R115). -/
theorem State.hostWrite_performed {s : State} {a : Nat} (b : Byte) (ha : a < s.msgSize)
    (hprogress : ∀ n, s.hashInProgress = some n → n ≤ a) (hoffered : ∀ n, s.hashOffered = some n → n ≤ a) :
    s.hostWrite a b = .next { s with msg := Memory.write s.msg a b } := by
  obtain ⟨hsize, -⟩ | ⟨⟨n, hn, hlt⟩, -⟩ | ⟨⟨n, hn, hlt⟩, -⟩ | ⟨-, -, -, heq⟩ := s.hostWrite_cases a b
  · exact absurd hsize (Nat.not_le.2 ha)
  · exact absurd (hprogress n hn) (Nat.not_le.2 hlt)
  · exact absurd (hoffered n hn) (Nat.not_le.2 hlt)
  · exact heq

/-- Settles O44: the write is performed, and a read after it gives the byte at its address alone. -/
theorem hostWriteStoresOneByte : Obligations.HostWriteStoresOneByte := by
  intro s a b ha ⟨hwf, hwithin⟩ hprogress hoffered
  refine ⟨_, s.hostWrite_performed b ha hprogress hoffered, rfl,
    ⟨Memory.write_wf _ _ _ hwf, Memory.write_within _ _ _ _ ha hwithin⟩, fun addr => ?_⟩
  simp only [State.memRead, Memory.lookup_write _ _ _ _ hwf]
  split <;> rfl

/-- The length of a HASH_MEM word that is presented (R47). -/
theorem State.hashOffered_of_offered {s : State} {w : Word64} {n : Nat} (hs : s.offered = some w)
    (hw : decode w = .ok (.hashMem n)) : s.hashOffered = some n := by
  simp [State.hashOffered, hs, hashLength, hw]

/-- Settles O46: a write below N is refused, by one name or the other, and one from N up is performed. -/
theorem noWriteAfterHashMemIsPresented : Obligations.NoWriteAfterHashMemIsPresented := by
  intro s w n a b hs hw ha
  have hoffered : s.hashOffered = some n := State.hashOffered_of_offered hs hw
  refine ⟨fun hlt => ?_, fun hle hprogress => ?_⟩
  · obtain ⟨hsize, -⟩ | ⟨-, heq⟩ | ⟨-, heq⟩ | ⟨-, -, habove, -⟩ := s.hostWrite_cases a b
    · exact absurd hsize (Nat.not_le.2 ha)
    · exact ⟨_, heq⟩
    · exact ⟨_, heq⟩
    · exact absurd (habove n hoffered) (Nat.not_le.2 hlt)
  · refine s.hostWrite_performed b ha hprogress fun k hk => ?_
    obtain rfl : n = k := Option.some.inj (hoffered.symm.trans hk)
    exact hle

/-! ### Every word is answered -/

/-- STATUS shows nothing of the response (R25). -/
@[simp] theorem State.respond_status (s : State) (v : Word64) : (s.respond v).status = s.status := by cases s; rfl

@[simp] theorem State.respondStatus_status (s : State) : s.respondStatus.status = s.status := s.respond_status _

@[simp] theorem State.raise_rspData (s : State) (c : ErrorCause) : (s.raise c).rspData = (s.raise c).status := by
  cases s; rfl

/-- What a pending response to a word is: H[I], LEN, or STATUS after the effects (R52, R57). -/
theorem execWord_rspData {w : Word64} {s t : State} (h : execWord w s = .next t) :
    t.rspData = match decode w with
      | .ok (.rdDigest i) => BitVec.ofNat 64 (s.h.get i).toNat
      | .ok .rdLen => s.len
      | _ => t.status := by
  obtain ⟨u, hu, hcases⟩ := execWord_cases w s
  obtain rfl : u = t := Host.Outcome.next.inj (hu.symm.trans h)
  rcases hcases with ⟨hw, rfl⟩ | ⟨b, hw, -, rfl⟩ | ⟨hw, -, rfl⟩ | ⟨n, hw, -, rfl⟩ | ⟨i, hw, rfl⟩ | ⟨hw, rfl⟩ |
    ⟨hu, -, hlen, hdigest, -⟩
  · simp [hw]
  · simp [hw]
  · simp [hw]
  · simp [hw]
  · simp [hw]
  · simp [hw]
  · have hstatus : u.rspData = u.status := by
      obtain rfl | ⟨c, rfl⟩ := hu <;> simp
    rw [hstatus]
    split
    · next i hw => exact absurd hw (hdigest i)
    · next hw => exact absurd hw hlen
    · rfl

/-- No command is in progress once a word is answered (R52). -/
theorem execWord_idle {w : Word64} {s t : State} (h : execWord w s = .next t) : t.busy = false ∧ t.pos = .idle := by
  obtain ⟨u, hu, hcases⟩ := execWord_cases w s
  obtain rfl : u = t := Host.Outcome.next.inj (hu.symm.trans h)
  rcases hcases with ⟨-, rfl⟩ | ⟨b, -, -, rfl⟩ | ⟨-, -, rfl⟩ | ⟨n, -, -, rfl⟩ | ⟨i, -, rfl⟩ | ⟨-, rfl⟩ |
    ⟨rfl | ⟨c, rfl⟩, -⟩ <;> exact ⟨rfl, rfl⟩

/-- Settles O36: the word is answered, by its response, and leaves the host's side. -/
theorem everyWordIsAnswered : Obligations.EveryWordIsAnswered := by
  intro w s
  obtain ⟨t, ht, -⟩ := execWord_cases w s
  obtain ⟨hbusy, hpos⟩ := execWord_idle ht
  exact ⟨t, ht, execWord_rspPending ht, hbusy, hpos, execWord_rspData ht, State.hostSide_inj (execWord_hostSide ht)⟩

/-! ### A run of words -/

/-- The step of a ready block at an offered word takes its response, and the block is ready again (R51, R52). -/
theorem step_transact_answers {s : State} {w : Word64} {rest : List Event} (hev : s.events = .transact w :: rest)
    (hready : s.ready = true) :
    ∃ t v, step s = .next t ∧ t.responses = s.responses ++ [v] ∧ t.events = rest ∧ t.ready = true := by
  obtain ⟨u, hu, -⟩ := execWord_cases w { s with events := rest, offered := none }
  have hside := execWord_hostSide hu
  obtain ⟨hbusy, -⟩ := execWord_idle hu
  refine ⟨u.takeResponse, u.rspData, ?_, ?_, congrArg HostSide.events hside, ?_⟩
  · rw [step_transact s w rest hev hready, hu]
    rfl
  · exact congrArg (· ++ [u.rspData]) (congrArg HostSide.responses hside)
  · exact State.ready_iff _ |>.2 ⟨hbusy, rfl⟩

/-- A run of offered words: one step and one response a word (R119). -/
theorem runSteps_answers (ws : List Word64) (s : State) (hready : s.ready = true)
    (hev : s.events = ws.map Event.transact) :
    ∃ t rs, runSteps ws.length s = .next t ∧ t.responses = s.responses ++ rs ∧ rs.length = ws.length ∧
      t.ready = true ∧ t.events = [] := by
  induction ws generalizing s with
  | nil => exact ⟨s, [], rfl, by simp, rfl, hready, hev⟩
  | cons w ws ih =>
    obtain ⟨u, v, hstep, hresp, hrest, hready'⟩ := step_transact_answers hev hready
    obtain ⟨t, rs, hrun, hresp', hcount, hready'', hend⟩ := ih u hready' hrest
    refine ⟨t, v :: rs, ?_, ?_, ?_, hready'', hend⟩
    · rw [List.length_cons, runSteps, hstep]
      exact hrun
    · rw [hresp', hresp, List.append_assoc, List.singleton_append]
    · rw [List.length_cons, List.length_cons, hcount]

/-- The observation of a run of `n` words shows the last `n` responses (R119). -/
theorem State.observe_responses {s : State} {before rs : List Word64} (h : s.responses = before ++ rs) :
    (s.observe rs.length).responses = rs := by
  simp [State.observe, h]

/-- Settles O55: the words are answered one after another, and the observation drops what was answered before. -/
theorem runAnswersEveryWord : Obligations.RunAnswersEveryWord := by
  intro s ws hready hev
  have hoffer : (s.offer ws).events = ws.map Event.transact := by simp [State.offer, hev]
  obtain ⟨t, rs, hrun, hresp, hcount, hready', hend⟩ := runSteps_answers ws (s.offer ws) hready hoffer
  refine ⟨t, rs, hrun, hresp, hcount, ?_, hready', hend⟩
  rw [← hcount]
  exact State.observe_responses hresp

/-! ### What can stop -/

section
variable {s : State}

/-- The addresses that a HASH_MEM in progress requests are in MSG (R34). -/
theorem State.Inv.msgRequest_lt (hs : s.Inv) {a : Nat} (h : s.msgRequest = some a) : a < s.msgSize := by
  obtain ⟨n, hpos, hb, -, ha⟩ := State.msgRequest_some h
  obtain ⟨-, -, hprog⟩ := State.running_of_inv hs hb
  simp only [State.InProgress, hpos] at hprog
  obtain ⟨⟨-, hn, -⟩, -⟩ := hprog
  exact Nat.lt_of_lt_of_le ha hn

/-- The memory answers every request of the block (R34, R43). -/
theorem State.Inv.memReply_next (hs : s.Inv) : ∃ t, s.memReply = .next t := by
  unfold State.memReply
  split
  · next a n a' hreq hpos => exact ⟨_, if_pos (hs.msgRequest_lt hreq)⟩
  · exact ⟨_, rfl⟩

theorem State.Inv.settle_next (hs : s.Inv) : ∃ t, s.settle = .next t := by
  unfold State.settle
  split
  · exact ⟨_, rfl⟩
  split
  · exact hs.memReply_next
  · exact s.workStep_next

theorem State.Inv.blockEdge_next (hs : s.Inv) (p : PortIn) : ∃ t, s.blockEdge p = .next t := by
  unfold State.blockEdge
  split
  · exact ⟨_, rfl⟩
  split
  · exact ⟨_, rfl⟩
  split
  · split
    · exact hs.memReply_next
    · exact ⟨_, rfl⟩
  · exact ⟨_, rfl⟩

/-- A transaction is done, or waits while the block settles (R77, R95). -/
theorem State.Inv.transact_next (hs : s.Inv) (w : Word64) (rest : List Event) :
    ∃ t, s.applyEvent (.transact w) rest = .next t := by
  unfold State.applyEvent
  dsimp only
  split
  · obtain ⟨u, hu, -⟩ := execWord_cases w (s.acceptTransact rest)
    exact ⟨u.takeResponse, by rw [hu]; rfl⟩
  · exact hs.settle_next

end

/-- Settles O60: every other kind of step gives a next state, and the host's write stops at its three kinds of
address. -/
theorem onlyAHostWriteStops : Obligations.OnlyAHostWriteStops := by
  intro s hs
  cases hev : s.events with
  | nil =>
    have hstep : step s = s.workStep := by simp only [step, hev]
    exact .inl (hstep ▸ s.workStep_next)
  | cons e rest =>
    have hstep : step s = s.applyEvent e rest := by simp only [step, hev]
    rw [hstep]
    cases e with
    | transact w => exact .inl (hs.transact_next w rest)
    | edge p =>
      exact .inl (State.Inv.blockEdge_next (s := State.present { s with events := rest } p) (hs.host rest _) p)
    | work => exact .inl (State.workStep_next { s with events := rest })
    | writeMsg a b =>
      obtain ⟨ha, heq⟩ | ⟨hn, heq⟩ | ⟨hn, heq⟩ | ⟨-, -, -, heq⟩ := State.hostWrite_cases { s with events := rest } a b
      · exact .inr ⟨a, b, rest, rfl, .inl ⟨ha, heq⟩⟩
      · exact .inr ⟨a, b, rest, rfl, .inr (.inl ⟨hn, heq⟩)⟩
      · exact .inr ⟨a, b, rest, rfl, .inr (.inr ⟨hn, heq⟩)⟩
      · exact .inl ⟨_, heq⟩

end Sys2Proof.Machine

/-! PROOFS. Bytes and messages: big-endian values, the final blocks as bytes, and what the commands leave of a message
(R37 to R39, R79 to R93). -/

namespace Sys2Proof.Machine

/-! ### Big-endian values -/

theorem be32Byte_toNat (w : Word) (k : Nat) : (be32Byte w k).toNat = w.toNat / 2 ^ (24 - 8 * k) % 2 ^ 8 := by
  rw [be32Byte, BitVec.extractLsb'_toNat, Nat.shiftRight_eq_div_pow]

theorem be64Byte_toNat (v : Word64) (k : Nat) : (be64Byte v k).toNat = v.toNat / 2 ^ (56 - 8 * k) % 2 ^ 8 := by
  rw [be64Byte, BitVec.extractLsb'_toNat, Nat.shiftRight_eq_div_pow]

/-- The bytes of a word, put together again (R12). -/
theorem be32_be32Byte (w : Word) : be32 (be32Byte w 0) (be32Byte w 1) (be32Byte w 2) (be32Byte w 3) = w := by
  have := w.isLt
  apply BitVec.eq_of_toNat_eq
  simp only [be32, append_toNat, be32Byte_toNat]
  omega

/-- The bytes of the word H[i] in the digest (R39). -/
theorem digestBytes_getElem (h : Words8) (i : Fin 8) (k : Nat) (hk : k < 4) :
    (digestBytes h)[4 * i.val + k] = be32Byte (h.get i) k := by
  have hword : (4 * i.val + k) / 4 = i.val := by omega
  have hbyte : (4 * i.val + k) % 4 = k := by omega
  simp only [digestBytes, Vector.getElem_ofFn, digestByte, hword, hbyte]

/-- Settles O13: they are the bytes of H[i], and make it up again. -/
theorem digestBytesAreBigEndian : Obligations.DigestBytesAreBigEndian := by
  intro h i
  have hfirst : (digestBytes h)[4 * i.val] = be32Byte (h.get i) 0 := digestBytes_getElem h i 0 (by omega)
  rw [hfirst, digestBytes_getElem h i 1 (by omega), digestBytes_getElem h i 2 (by omega),
    digestBytes_getElem h i 3 (by omega), be32_be32Byte]

/-- The first `k` of the eight bytes of a length field, read big-endian (R12). -/
theorem foldl_be64Byte (v : Word64) (k : Nat) (hk : k ≤ 8) :
    ((List.range k).map (be64Byte v)).foldl (fun acc b => 256 * acc + b.toNat) 0 = v.toNat / 2 ^ (64 - 8 * k) := by
  induction k with
  | zero => exact (Nat.div_eq_of_lt v.isLt).symm
  | succ k ih =>
    have hsplit : v.toNat / 2 ^ (64 - 8 * k) = v.toNat / 2 ^ (56 - 8 * k) / 256 := by
      rw [Nat.div_div_eq_div_mul, show 64 - 8 * k = 56 - 8 * k + 8 by omega, Nat.pow_add]
    rw [List.range_succ, List.map_append, List.foldl_append, ih (by omega), hsplit,
      show 64 - 8 * (k + 1) = 56 - 8 * k by omega]
    simp only [List.map_cons, List.map_nil, List.foldl_cons, List.foldl_nil, be64Byte_toNat]
    omega

/-- The eight bytes of a length field, read big-endian, are its value (R12, R38). -/
theorem foldl_be64Bytes (v : Word64) :
    (be64Bytes v).foldl (fun acc b => 256 * acc + b.toNat) 0 = v.toNat :=
  (foldl_be64Byte v 8 le_rfl).trans (Nat.div_one _)

/-- The padded message ends in its length field (R79). -/
theorem padded_drop_length (m : List Byte) :
    (padded m).drop ((padded m).length - 8) = be64Bytes (BitVec.ofNat 64 (8 * m.length)) := by
  have hlen : (padded m).length - 8 = (m ++ [0x80] ++ List.replicate (padZeros m.length) 0).length := by
    rw [padded_length]
    simp
    omega
  rw [hlen]
  exact List.drop_left

/-- Settles O15: the length field holds the bit length, which fits. -/
theorem paddedEndsInTheBitLength : Obligations.PaddedEndsInTheBitLength := by
  intro m hm
  rw [padded_drop_length, foldl_be64Bytes, BitVec.toNat_ofNat]
  omega

/-! ### The final blocks as bytes -/

/-- The partial block with its terminator and zeros (R83). -/
theorem terminate_toList (buf : Buffer) (i : Nat) (hi : i < 64) :
    (terminate buf i).toList = buf.toList.take i ++ [0x80] ++ List.replicate (63 - i) 0 := by
  apply List.ext_getElem
  · simp
    omega
  · intro j hj _
    have hj : j < 64 := by simpa using hj
    have hlen : (buf.toList.take i).length = i := by simp; omega
    rw [Vector.getElem_toList, terminate_getElem _ _ _ hj]
    rcases Nat.lt_trichotomy j i with hlt | rfl | hgt
    · rw [if_pos hlt, List.getElem_append_left (by simp; omega), List.getElem_append_left (by omega),
        List.getElem_take, Vector.getElem_toList]
    · rw [if_neg (by omega), if_pos rfl, List.getElem_append_left (by simp; omega),
        List.getElem_append_right (by omega), List.getElem_singleton]
    · rw [if_neg (by omega), if_neg (by omega), List.getElem_append_right (by simp; omega), List.getElem_replicate]

/-- A block that ends in the length field (R38, R83). -/
theorem putLength_toList (buf : Buffer) (v : Word64) :
    (putLength buf v).toList = buf.toList.take 56 ++ be64Bytes v := by
  apply List.ext_getElem
  · simp [be64Bytes_length]
  · intro j hj _
    have hj : j < 64 := by simpa using hj
    simp only [Vector.getElem_toList, putLength_getElem _ _ _ hj, List.getElem_append, List.getElem_take,
      List.length_take, Vector.length_toList, be64Bytes, List.getElem_map, List.getElem_range]
    rfl

/-- The one final block of a message whose rest leaves room for the length field (R80, R83). -/
theorem putLength_terminate_toList (buf : Buffer) (i : Nat) (v : Word64) (hi : i < 56) :
    (putLength (terminate buf i) v).toList =
      buf.toList.take i ++ [0x80] ++ List.replicate (55 - i) 0 ++ be64Bytes v := by
  rw [putLength_toList, terminate_toList _ _ (by omega)]
  have htake : (buf.toList.take i ++ [0x80]).length = i + 1 := by simp; omega
  rw [List.take_append, htake, List.take_of_length_le (by omega), List.take_replicate,
    show min (56 - (i + 1)) (63 - i) = 55 - i by omega]

/-- The last block of a message whose rest leaves no room for it (R80, R83). -/
theorem putLength_zeroBuffer_toList (v : Word64) :
    (putLength zeroBuffer v).toList = List.replicate 56 0 ++ be64Bytes v := by
  rw [putLength_toList]
  rfl

/-! ### FINISH -/

/-- FINISH with no error bit set and the message open is performed (R86). -/
theorem exec_finish_performed {s : State} (herr : s.err = noErrors) (hf : s.flag = .streaming) :
    exec .finish s = .next s.finishMessage.respondStatus := by
  simp only [exec, execFinish, s.finishCheck_perform.2 ⟨herr, hf⟩, State.guarded]

/-- STATUS of a message closed by the boundary decision at the index `i`, without errors: FLAG and DONE alone (R25,
R80). -/
theorem State.status_of_paddingFlag {s : State} (i : Nat) (herr : s.err = noErrors) (hidx : s.idx = 0)
    (hf : s.flag = paddingFlag i) : s.status = if i < 56 then 3 else 5 := by
  obtain ⟨hfits, hspills⟩ := s.status_closed herr hidx
  by_cases hi : i < 56
  · rw [if_pos hi]
    exact hfits (hf.trans (if_pos hi))
  · rw [if_neg hi]
    exact hspills (hf.trans (if_neg hi))

/-- STATUS after FINISH without errors (R86). -/
theorem State.finishMessage_status {s : State} (herr : s.err = noErrors) :
    s.finishMessage.status = if s.idx.val < 56 then 3 else 5 := by
  obtain ⟨ms, -, heq⟩ := s.finishMessage_spec
  rw [heq]
  exact State.status_of_paddingFlag s.idx.val herr rfl rfl

/-- Settles O24: the one final block, and its bytes. -/
theorem finishPadsOneBlock : Obligations.FinishPadsOneBlock := by
  intro s herr hf hi
  have hstatus : s.finishMessage.status = 3 := (State.finishMessage_status herr).trans (if_pos hi)
  have hblock : bufferWords (putLength (terminate s.buf s.idx.val) s.bitLength) = _ :=
    congrArg (blockAt · 0) (putLength_terminate_toList s.buf s.idx.val s.bitLength hi)
  obtain ⟨ms, hms, heq⟩ := s.finishMessage_spec
  rw [if_pos hi, hblock] at hms
  subst hms
  refine ⟨_, exec_finish_performed herr hf, ?_, ?_⟩
  · rw [heq]
    rfl
  · rw [State.respondStatus, hstatus, heq]
    simp only [paddingFlag, hi]
    rfl

/-- Settles O25: the two final blocks in their order, and their bytes. -/
theorem finishPadsTwoBlocks : Obligations.FinishPadsTwoBlocks := by
  intro s herr hf hi
  have hi : ¬s.idx.val < 56 := by omega
  have hstatus : s.finishMessage.status = 5 := (State.finishMessage_status herr).trans (if_neg hi)
  have hfirst : bufferWords (terminate s.buf s.idx.val) = _ :=
    congrArg (blockAt · 0) (terminate_toList s.buf s.idx.val s.idx.isLt)
  have hlast : bufferWords (putLength zeroBuffer s.bitLength) = _ :=
    congrArg (blockAt · 0) (putLength_zeroBuffer_toList s.bitLength)
  obtain ⟨ms, hms, heq⟩ := s.finishMessage_spec
  rw [if_neg hi, hfirst, hlast] at hms
  subst hms
  refine ⟨_, exec_finish_performed herr hf, ?_, ?_⟩
  · rw [heq]
    rfl
  · rw [State.respondStatus, hstatus, heq]
    simp only [paddingFlag, hi]
    rfl

/-! ### HASH_MEM -/

/-- HASH_MEM N with N at most MSG_SIZE is performed in every state (R87, R98). -/
theorem exec_hashMem_performed {s : State} {n : Nat} (hn : n ≤ s.msgSize) :
    exec (.hashMem n) s = .next (s.hashMessage n).respondStatus := by
  simp only [exec, execHashMem, (s.hashCheck_perform n).2 hn, State.guarded]

/-- STATUS after a HASH_MEM performed (R87). -/
theorem State.hashMessage_status (s : State) (n : Nat) :
    (s.hashMessage n).status = if n % 64 < 56 then 3 else 5 := by
  rw [s.hashMessage_spec]
  exact State.status_of_paddingFlag (n % 64) rfl rfl rfl

/-- Settles O26: HASH_MEM is performed, and N fits LEN. -/
theorem hashMemDigestsTheMessage : Obligations.HashMemDigestsTheMessage := by
  intro s n hn
  have hsize : s.msgSize ≤ 2 ^ 56 := s.msgSize_le
  have hn : n ≤ s.msgSize := hn
  have hstatus := s.hashMessage_status n
  refine ⟨_, exec_hashMem_performed hn, ?_, ?_, ?_⟩
  · rw [s.hashMessage_spec]
    rfl
  · rw [s.hashMessage_spec, State.respondStatus_len, BitVec.toNat_ofNat]
    omega
  · rw [State.respondStatus, hstatus, s.hashMessage_spec]
    rfl

/-- The message of a HASH_MEM is its bytes as they read (R44). -/
theorem State.message_congr {s t : State} {n : Nat} (h : ∀ a, a < n → s.memRead a = t.memRead a) :
    s.message n = t.message n :=
  List.map_congr_left fun a ha => h a (List.mem_range.1 ha)

/-- Settles O28: H depends on the message, and LEN, FLAG and the response on N. -/
theorem hashMemReadsOnlyItsBytes : Obligations.HashMemReadsOnlyItsBytes := by
  intro s s' t t' n hn hn' hread h h'
  have hmessage : s.message n = s'.message n := State.message_congr hread
  obtain rfl := Host.Outcome.next.inj ((exec_hashMem_performed hn).symm.trans h)
  obtain rfl := Host.Outcome.next.inj ((exec_hashMem_performed hn').symm.trans h')
  refine ⟨?_, ?_, ?_, ?_⟩
  · simp only [State.respondStatus_h, State.hashMessage_spec, hmessage]
  · simp only [State.respondStatus_len, State.hashMessage_spec]
  · simp only [State.respondStatus_flag, State.hashMessage_spec]
  · rw [State.respondStatus_rspData, State.respondStatus_rspData, s.hashMessage_status, s'.hashMessage_status]

/-! ### The digest read out -/

/-- Settles O29: each read is its response. -/
theorem readsRespondAndChangeNothing : Obligations.ReadsRespondAndChangeNothing := by
  intro s i
  refine ⟨?_, rfl, rfl⟩
  rw [BitVec.ofNat_toNat]
  rfl

/-- The ABSORBs of a list of bytes append them to the open message (R85). -/
theorem execAll_absorb (bs : List Byte) (s : State) (m : List Byte) (hs : s.Absorbed m)
    (hlen : m.length + bs.length ≤ 2 ^ 61 - 1) :
    ∃ t, execAll (bs.map .absorb) s = .next t ∧ t.Absorbed (m ++ bs) := by
  induction bs generalizing s m with
  | nil => exact ⟨s, rfl, by simpa using hs⟩
  | cons b bs ih =>
    rw [List.length_cons] at hlen
    obtain ⟨u, hu, hsnoc⟩ := absorbAppendsToTheMessage s m b hs (by omega)
    obtain ⟨t, ht, happend⟩ := ih u (m ++ [b]) hsnoc (by rw [List.length_append, List.length_singleton]; omega)
    refine ⟨t, ?_, by simpa using happend⟩
    rw [List.map_cons, execAll, hu]
    exact ht

/-- INIT and the ABSORBs of a message open it (R84, R85). -/
theorem execAll_init_absorb (s : State) (m : List Byte) (hm : m.length ≤ 2 ^ 61 - 1) :
    ∃ t, execAll ([.init] ++ m.map .absorb) s = .next t ∧ t.Absorbed m := by
  have hinit : s.startMessage.respondStatus.Absorbed [] := s.startMessage_absorbed
  obtain ⟨t, ht, habsorbed⟩ := execAll_absorb m _ [] hinit (by simpa using hm)
  exact ⟨t, ht, habsorbed⟩

/-- Settles O43: the message is open after its ABSORBs, and FINISH leaves its digest in H, which RD_DIGEST reads. -/
theorem digestIsReadOut : Obligations.DigestIsReadOut := by
  intro s m i hm
  obtain ⟨t, ht, hopen⟩ := execAll_init_absorb s m hm
  have hh := hopen.finishMessage_h
  obtain ⟨-, hf, herr, -⟩ := hopen
  have hclose : execAll [.finish, .rdDigest i] t =
      .next (t.finishMessage.respondStatus.respond (((sha256 m).get i).setWidth 64)) := by
    rw [execAll, exec_finish_performed herr hf, ← hh]
    rfl
  refine ⟨_, (execAll_append _ _ _ _ ht).trans hclose, ?_, rfl⟩
  rw [BitVec.ofNat_toNat]
  rfl

end Sys2Proof.Machine

/-! PROOFS. Encoding and the command and response ports: which words are commands, the match and mask table, illegal words
and assembly lines (R53 to R62), and what an edge does to a presented word and a pending response (R51, R52, R113). -/

namespace Sys2Proof.Machine

/-! ### A word and its two fields -/

/-- A word is its opcode above its operand (R53). -/
theorem opcodeField_append_operandField (w : Word64) : opcodeField w ++ operandField w = w := by
  apply BitVec.eq_of_toNat_eq
  rw [append_toNat, opcodeField_toNat, operandField_toNat]
  omega

/-- Two words are the same when their fields are. -/
theorem fields_append_inj {o o' : BitVec 8} {x x' : BitVec 56} : o ++ x = o' ++ x' ↔ o = o' ∧ x = x' := by
  constructor
  · intro h
    have hnat := congrArg BitVec.toNat h
    rw [append_toNat, append_toNat] at hnat
    exact ⟨BitVec.eq_of_toNat_eq (by omega), BitVec.eq_of_toNat_eq (by omega)⟩
  · rintro ⟨rfl, rfl⟩
    rfl

/-- A word is the word of a command exactly when its fields are the command's. -/
theorem encode_eq_iff (i : Instr) (w : Word64) :
    encode i = w ↔ opcodeField w = opcodeOf i ∧ operandField w = operandOf i := by
  rw [encode, ← fields_append_inj, opcodeField_append_operandField]
  exact eq_comm

/-! ### The operand formats -/

theorem formatB_fits (w : Word64) : w.extractLsb' 8 48 = 0 ↔ (operandField w).toNat < 2 ^ 8 := by
  rw [formatB_bits, operandField_toNat]
  omega

theorem formatI_fits (w : Word64) : w.extractLsb' 3 53 = 0 ↔ (operandField w).toNat < 2 ^ 3 := by
  rw [formatI_bits, operandField_toNat]
  omega

/-- Format Z reads the operand 0 alone (R54). -/
theorem formatZ_eq_ok {w : Word64} {i j : Instr} : formatZ w i = .ok j ↔ operandField w = 0 ∧ i = j := by
  unfold formatZ
  split <;> simp_all

/-- Format B reads the 56-bit forms of bytes (R54, R55). -/
theorem formatB_eq_ok {w : Word64} {f : Byte → Instr} {j : Instr} :
    formatB w f = .ok j ↔ ∃ b : Byte, operandField w = b.setWidth 56 ∧ f b = j := by
  have hfield : (byteField w).toNat = (operandField w).toNat % 2 ^ 8 := by
    rw [byteField_toNat, operandField_toNat]
    omega
  constructor
  · intro h
    unfold formatB at h
    split at h
    case isFalse => cases h
    case isTrue hzero =>
      refine ⟨byteField w, ?_, Except.ok.inj h⟩
      have := (formatB_fits w).1 hzero
      apply BitVec.eq_of_toNat_eq
      rw [BitVec.toNat_setWidth, hfield]
      omega
  · rintro ⟨b, hb, rfl⟩
    have hlt := b.isLt
    have hnat : (operandField w).toNat = b.toNat := by
      rw [hb, BitVec.toNat_setWidth]
      omega
    have hbyte : byteField w = b := BitVec.eq_of_toNat_eq (by omega)
    rw [formatB, if_pos ((formatB_fits w).2 (by omega)), hbyte]

/-- Format N reads every operand, as a count below 2^56 (R54, R55). -/
theorem formatN_eq_ok {w : Word64} {f : Nat → Instr} {j : Instr} :
    formatN w f = .ok j ↔ ∃ n : Nat, n < 2 ^ 56 ∧ operandField w = BitVec.ofNat 56 n ∧ f n = j := by
  constructor
  · intro h
    exact ⟨countField w, (operandField w).isLt, by simp [countField], Except.ok.inj h⟩
  · rintro ⟨n, hn, hoperand, rfl⟩
    have hcount : countField w = n := by
      rw [countField, hoperand, BitVec.toNat_ofNat, Nat.mod_eq_of_lt hn]
    rw [formatN, hcount]

/-- Format I reads the 56-bit forms of the indices 0 to 7 (R54, R55). -/
theorem formatI_eq_ok {w : Word64} {f : Fin 8 → Instr} {j : Instr} :
    formatI w f = .ok j ↔ ∃ i : Fin 8, operandField w = BitVec.ofNat 56 i.val ∧ f i = j := by
  have hfield : (indexField w).toFin.val = (operandField w).toNat % 2 ^ 3 := by
    rw [BitVec.val_toFin, indexField_toNat, operandField_toNat]
    omega
  constructor
  · intro h
    unfold formatI at h
    split at h
    case isFalse => cases h
    case isTrue hzero =>
      refine ⟨(indexField w).toFin, ?_, Except.ok.inj h⟩
      have := (formatI_fits w).1 hzero
      apply BitVec.eq_of_toNat_eq
      rw [BitVec.toNat_ofNat, hfield]
      omega
  · rintro ⟨i, hi, rfl⟩
    have hlt := i.isLt
    have hnat : (operandField w).toNat = i.val := by
      rw [hi, BitVec.toNat_ofNat]
      omega
    have hindex : (indexField w).toFin = i := Fin.ext (by omega)
    rw [formatI, if_pos ((formatI_fits w).2 (by omega)), hindex]

/-! ### Decode and encode -/

/-- A word decodes to a command exactly when the command is well formed and has the word's opcode and operand. -/
theorem decode_eq_ok_iff {w : Word64} {i : Instr} :
    decode w = .ok i ↔ i.wellFormed = true ∧ opcodeField w = opcodeOf i ∧ operandField w = operandOf i := by
  constructor
  · intro h
    unfold decode at h
    dsimp only at h
    split_ifs at h with hop hop hop hop hop hop hop
    · obtain ⟨hoperand, rfl⟩ := formatZ_eq_ok.1 h
      exact ⟨rfl, hop, hoperand⟩
    · obtain ⟨b, hoperand, rfl⟩ := formatB_eq_ok.1 h
      exact ⟨rfl, hop, hoperand⟩
    · obtain ⟨hoperand, rfl⟩ := formatZ_eq_ok.1 h
      exact ⟨rfl, hop, hoperand⟩
    · obtain ⟨n, hn, hoperand, rfl⟩ := formatN_eq_ok.1 h
      exact ⟨decide_eq_true hn, hop, hoperand⟩
    · obtain ⟨i, hoperand, rfl⟩ := formatI_eq_ok.1 h
      exact ⟨rfl, hop, hoperand⟩
    · obtain ⟨hoperand, rfl⟩ := formatZ_eq_ok.1 h
      exact ⟨rfl, hop, hoperand⟩
    · obtain ⟨hoperand, rfl⟩ := formatZ_eq_ok.1 h
      exact ⟨rfl, hop, hoperand⟩
  · rintro ⟨hwf, hop, hoperand⟩
    unfold decode
    rw [hop]
    cases i with
    | init | finish | rdStatus | rdLen => exact formatZ_eq_ok.2 ⟨hoperand, rfl⟩
    | absorb b => exact formatB_eq_ok.2 ⟨b, hoperand, rfl⟩
    | hashMem n => exact formatN_eq_ok.2 ⟨n, of_decide_eq_true hwf, hoperand, rfl⟩
    | rdDigest k => exact formatI_eq_ok.2 ⟨k, hoperand, rfl⟩

/-- Settles O1: the word of a command has the command's fields, and these decode to it. -/
theorem decodeOfEncodeIsTheCommand : Obligations.DecodeOfEncodeIsTheCommand := fun i hwf =>
  decode_eq_ok_iff.2 ⟨hwf, (encode_eq_iff i _).1 rfl⟩

/-- Settles O2: a word that decodes has the fields of its command, and two fields make one word. -/
theorem decodedWordIsTheCommandsWord : Obligations.DecodedWordIsTheCommandsWord := by
  intro w i h
  obtain ⟨hwf, hfields⟩ := decode_eq_ok_iff.1 h
  exact ⟨(encode_eq_iff i w).2 hfields, hwf⟩

/-- Settles O6: seven closed words, each evaluated by the decoder. -/
theorem wordsOfTheSpecDecode : Obligations.WordsOfTheSpecDecode := by
  unfold Obligations.WordsOfTheSpecDecode
  decide

/-! ### The match and mask table -/

/-- How many operand bits the command of each row of the table has, from bit 0 on (R54, R56). -/
def rowOperandBits (j : Fin opcodeRows.length) : Nat := [0, 8, 0, 56, 3, 0, 0][j]

/-- A row fixes the opcode, one more than its number, and every operand bit that its command does not use (R56). -/
theorem opcodeRows_getElem (j : Fin opcodeRows.length) :
    opcodeRows[j] = ⟨BitVec.ofNat 8 (j.val + 1) ++ 0#56,
      BitVec.allOnes 8 ++ BitVec.allOnes 56 <<< rowOperandBits j⟩ := by
  revert j
  decide

/-- The bits from `k` on are 0 when the value is below 2^k. -/
theorem and_allOnes_shiftLeft_eq_zero {n : Nat} (x : BitVec n) (k : Nat) :
    x &&& BitVec.allOnes n <<< k = 0 ↔ x.toNat < 2 ^ k := by
  have hle : x.toNat / 2 ^ k * 2 ^ k < 2 ^ n := (Nat.div_mul_le_self _ _).trans_lt x.isLt
  rw [← BitVec.shiftLeft_ushiftRight, ← BitVec.toNat_inj, BitVec.toNat_shiftLeft, BitVec.toNat_ushiftRight,
    Nat.shiftRight_eq_div_pow, Nat.shiftLeft_eq, Nat.mod_eq_of_lt hle]
  simp

/-- A word matches a row when it has the row's opcode and an operand of the row's width (R56). -/
theorem rowMatches_iff (w : Word64) (j : Fin opcodeRows.length) :
    rowMatches opcodeRows[j] w = true ↔
      opcodeField w = BitVec.ofNat 8 (j.val + 1) ∧ (operandField w).toNat < 2 ^ rowOperandBits j := by
  have hand : w &&& (BitVec.allOnes 8 ++ BitVec.allOnes 56 <<< rowOperandBits j) =
      opcodeField w ++ (operandField w &&& BitVec.allOnes 56 <<< rowOperandBits j) := by
    conv_lhs => rw [← opcodeField_append_operandField w]
    rw [BitVec.and_append, BitVec.and_allOnes]
  rw [opcodeRows_getElem, rowMatches, decide_eq_true_iff, hand, ← and_allOnes_shiftLeft_eq_zero]
  exact fields_append_inj

theorem operandOf_absorb_lt (b : Byte) : (operandOf (.absorb b)).toNat < 256 := by
  rw [operandOf, BitVec.toNat_setWidth_of_le (by decide)]
  exact b.isLt

theorem operandOf_rdDigest_lt (k : Fin 8) : (operandOf (.rdDigest k)).toNat < 8 :=
  (Nat.mod_le _ _).trans_lt k.isLt

/-- The fields of the well-formed commands are the opcodes of the rows, each with the operands of its width (R54 to R56). -/
theorem exists_fields_iff (o : BitVec 8) (x : BitVec 56) :
    (∃ i : Instr, i.wellFormed = true ∧ o = opcodeOf i ∧ x = operandOf i) ↔
      ∃ j : Fin opcodeRows.length, o = BitVec.ofNat 8 (j.val + 1) ∧ x.toNat < 2 ^ rowOperandBits j := by
  constructor
  · rintro ⟨i, -, rfl, rfl⟩
    cases i with
    | init => exact ⟨⟨0, by decide⟩, rfl, by decide⟩
    | absorb b => exact ⟨⟨1, by decide⟩, rfl, operandOf_absorb_lt b⟩
    | finish => exact ⟨⟨2, by decide⟩, rfl, by decide⟩
    | hashMem n => exact ⟨⟨3, by decide⟩, rfl, (BitVec.ofNat 56 n).isLt⟩
    | rdDigest k => exact ⟨⟨4, by decide⟩, rfl, operandOf_rdDigest_lt k⟩
    | rdStatus => exact ⟨⟨5, by decide⟩, rfl, by decide⟩
    | rdLen => exact ⟨⟨6, by decide⟩, rfl, by decide⟩
  · rintro ⟨j, rfl, hx⟩
    have hzero (h : x.toNat < 2 ^ 0) : x = 0 := BitVec.eq_of_toNat_eq (Nat.lt_one_iff.1 h)
    match j with
    | ⟨0, _⟩ => exact ⟨.init, rfl, rfl, hzero hx⟩
    | ⟨1, _⟩ =>
      have hx : x.toNat < 2 ^ 8 := hx
      refine ⟨.absorb (x.setWidth 8), rfl, rfl, BitVec.eq_of_toNat_eq ?_⟩
      rw [operandOf, BitVec.toNat_setWidth, BitVec.toNat_setWidth]
      omega
    | ⟨2, _⟩ => exact ⟨.finish, rfl, rfl, hzero hx⟩
    | ⟨3, _⟩ => exact ⟨.hashMem x.toNat, decide_eq_true x.isLt, rfl, by simp [operandOf]⟩
    | ⟨4, _⟩ => exact ⟨.rdDigest ⟨x.toNat, hx⟩, rfl, rfl, by simp [operandOf]⟩
    | ⟨5, _⟩ => exact ⟨.rdStatus, rfl, rfl, hzero hx⟩
    | ⟨6, _⟩ => exact ⟨.rdLen, rfl, rfl, hzero hx⟩

/-- A word is legal when it matches a row: both say that its fields are those of a command (R56). -/
theorem exists_decode_iff (w : Word64) :
    (∃ i, decode w = .ok i) ↔ ∃ j : Fin opcodeRows.length, rowMatches opcodeRows[j] w = true := by
  simp only [decode_eq_ok_iff, rowMatches_iff]
  exact exists_fields_iff _ _

/-- The opcode of a word tells the row (R56). -/
theorem row_unique {w : Word64} {j k : Fin opcodeRows.length} (hj : rowMatches opcodeRows[j] w = true)
    (hk : rowMatches opcodeRows[k] w = true) : j = k := by
  obtain ⟨hopj, -⟩ := (rowMatches_iff w j).1 hj
  obtain ⟨hopk, -⟩ := (rowMatches_iff w k).1 hk
  have hop := congrArg BitVec.toNat (hopj.symm.trans hopk)
  have hlj : j.val < 7 := j.isLt
  have hlk : k.val < 7 := k.isLt
  rw [BitVec.toNat_ofNat, BitVec.toNat_ofNat] at hop
  exact Fin.ext (by omega)

/-- Settles O3: the rows are the commands' fields, and no two have the same opcode. -/
theorem legalWordsAreTheTableRows : Obligations.LegalWordsAreTheTableRows := by
  refine ⟨fun w => ?_, fun w j k => row_unique⟩
  rw [exists_decode_iff]
  constructor
  · rintro ⟨j, hj⟩
    exact ⟨_, List.getElem_mem j.isLt, hj⟩
  · rintro ⟨r, hr, hmatch⟩
    obtain ⟨j, hj, rfl⟩ := List.getElem_of_mem hr
    exact ⟨⟨j, hj⟩, hmatch⟩

/-! ### Illegal words -/

/-- A word that is no command raises ERR_CMD, whatever the state (R58, R59). -/
theorem execWord_of_illegal {w : Word64} (s : State) (h : ∀ i, decode w ≠ .ok i) :
    execWord w s = .next (s.raise .cmd) := by
  cases hw : decode w with
  | ok i => exact absurd hw (h i)
  | error r => exact execWord_of_reject s hw

/-- ERR_CMD raised: its bit and the response are all that changes, but for the position (R96, R97). -/
theorem State.raise_cmd_eq (s : State) :
    s.raise .cmd = { s with err := { s.err with cmd := true }, rspData := (s.raise .cmd).status, rspPending := true,
                            busy := false, pos := (s.raise .cmd).pos } := by
  cases s
  rfl

/-- Settles O4: the opcode of every command is one of 0x01 to 0x07. -/
theorem reservedOpcodeRaisesErrCmd : Obligations.ReservedOpcodeRaisesErrCmd := by
  intro w s hop
  have hillegal (i : Instr) : decode w ≠ .ok i := by
    intro hw
    obtain ⟨-, hopcode, -⟩ := decode_eq_ok_iff.1 hw
    rw [hopcode] at hop
    cases i <;> simp [opcodeOf] at hop
  exact ⟨_, execWord_of_illegal s hillegal, s.raise_cmd_eq⟩

/-- Settles O5: the operand of every command fits its format. -/
theorem operandBitSetRaisesErrCmd : Obligations.OperandBitSetRaisesErrCmd := by
  intro w s hbits
  have hillegal (i : Instr) : decode w ≠ .ok i := by
    intro hw
    obtain ⟨-, hopcode, hoperand⟩ := decode_eq_ok_iff.1 hw
    rw [hopcode, hoperand] at hbits
    cases i with
    | init | finish | rdStatus | rdLen | hashMem n => simp [opcodeOf, operandOf] at hbits
    | absorb b => simp [opcodeOf, (operandOf_absorb_lt b).not_ge] at hbits
    | rdDigest k => simp [opcodeOf, (operandOf_rdDigest_lt k).not_ge] at hbits
  exact ⟨_, execWord_of_illegal s hillegal, s.raise_cmd_eq⟩

/-! ### Assembly lines -/

/-- The words of a line in range, other than `.word`, are words of well-formed commands (R61, R62). -/
theorem AsmLine.words_encode {line : AsmLine} (hwf : line.wellFormed = true) (hline : ∀ n, line ≠ .word n) {w : Word64}
    (hw : w ∈ line.words) : ∃ i : Instr, i.wellFormed = true ∧ encode i = w := by
  cases line with
  | word n => exact absurd rfl (hline n)
  | init | absorb b | finish | rdDigest k | rdStatus | rdLen => exact ⟨_, rfl, (List.mem_singleton.1 hw).symm⟩
  | hashMem n => exact ⟨.hashMem n, hwf, (List.mem_singleton.1 hw).symm⟩
  | absorbBytes bytes =>
    obtain ⟨b, -, hb⟩ := List.mem_map.1 hw
    exact ⟨_, rfl, hb⟩
  | rdDigestAll =>
    obtain ⟨k, -, hk⟩ := List.mem_map.1 hw
    exact ⟨_, rfl, hk⟩
  | hashBytes bytes =>
    rw [AsmLine.words, List.mem_append, List.mem_append, List.mem_singleton, List.mem_map, List.mem_singleton] at hw
    obtain (rfl | ⟨b, -, rfl⟩) | rfl := hw <;> exact ⟨_, rfl, rfl⟩

/-- Settles O7: the words of such a line are words of well-formed commands, which decode. -/
theorem assembledLinesAreLegal : Obligations.AssembledLinesAreLegal := by
  intro line ws hassemble hline w hw
  unfold assemble at hassemble
  split at hassemble
  case isFalse => cases hassemble
  case isTrue hwf =>
    obtain rfl := Option.some.inj hassemble
    obtain ⟨i, hi, rfl⟩ := AsmLine.words_encode hwf hline hw
    exact ⟨i, decodeOfEncodeIsTheCommand i hi⟩

/-! ### Command and response ports -/

/-- When the block takes a command word (R51, R109). -/
theorem State.cmdReady_iff (s : State) (rst : Bool) :
    (s.portOut rst).cmdReady = true ↔ rst = false ∧ s.busy = false ∧ s.rspPending = false := by
  simp [State.portOut, State.ready_iff]

theorem State.clockEdge_of_reset (s : State) {p : PortIn} (hrst : p.rst = true) :
    s.clockEdge p = .next (s.present p).resetBlock := if_pos hrst

/-- At an edge with a response pending, the response is taken or nothing happens (R52). -/
theorem State.clockEdge_of_pending {s : State} {p : PortIn} (hrst : p.rst = false) (hp : s.rspPending = true) :
    s.clockEdge p = .next (if p.rspReady then (s.present p).takeResponse else s.present p) := by
  simp [State.clockEdge, State.blockEdge, hrst, hp]

/-- At an edge with cmd_ready = 1, the presented word is accepted or nothing happens (R51, R107). -/
theorem State.clockEdge_of_ready {s : State} {p : PortIn} (h : (s.portOut p.rst).cmdReady = true) :
    s.clockEdge p = .next (if p.cmdValid then (s.present p).accept p.cmdData else s.present p) := by
  obtain ⟨hrst, hb, hp⟩ := (s.cmdReady_iff _).1 h
  simp [State.clockEdge, State.blockEdge, hrst, hb, hp]

/-- BUSY becomes 1 only by the acceptance of a word (R51). -/
theorem State.accepted_of_busy {s t : State} {p : PortIn} (h : s.clockEdge p = .next t) (hs : s.busy = false)
    (ht : t.busy = true) : (s.portOut p.rst).cmdReady = true ∧ p.cmdValid = true := by
  have hrst : p.rst = false := by
    by_contra hrst
    rw [s.clockEdge_of_reset (by simpa using hrst)] at h
    obtain rfl := Host.Outcome.next.inj h
    cases ht
  have hp : s.rspPending = false := by
    by_contra hp
    rw [State.clockEdge_of_pending hrst (by simpa using hp)] at h
    obtain rfl := Host.Outcome.next.inj h
    split at ht <;> simp [hs] at ht
  have hready := (s.cmdReady_iff p.rst).2 ⟨hrst, hs, hp⟩
  rw [State.clockEdge_of_ready hready] at h
  obtain rfl := Host.Outcome.next.inj h
  refine ⟨hready, ?_⟩
  by_contra hvalid
  rw [if_neg hvalid, State.present_busy, hs] at ht
  cases ht

/-- Settles O49: a ready block accepts the presented word, idles without one, and is made BUSY by nothing else. -/
theorem commandTransfer : Obligations.CommandTransfer := by
  intro s p
  refine ⟨s.cmdReady_iff _, fun hready hvalid => ?_, fun hready hvalid => ?_, fun t => State.accepted_of_busy⟩
  · refine ⟨_, State.clockEdge_of_ready hready, ?_⟩
    rw [if_pos hvalid]
    rfl
  · refine ⟨_, State.clockEdge_of_ready hready, ?_⟩
    rw [if_neg (by simp [hvalid])]
    rfl

/-- An edge leaves the word that it shows waiting or gone, whatever the block does at it (R113). -/
theorem State.blockEdge_offered {s t : State} {p : PortIn} (h : s.blockEdge p = .next t) : t.offered = s.offered := by
  obtain ⟨-, rfl⟩ | rfl | ⟨-, rfl⟩ | hreply | ⟨-, -, rfl⟩ := State.blockEdge_cases h
  · rfl
  · rfl
  · rfl
  · exact congrArg HostSide.offered (State.memReply_hostSide hreply)
  · rfl

/-- Settles O50: the edge notes the presented word, and a ready block accepts it. -/
theorem presentedWordWaits : Obligations.PresentedWordWaits := by
  intro s t p h
  have hoffered := (State.blockEdge_offered h).trans (s.present_offered p)
  refine ⟨fun hvalid hready => ?_, fun hvalid hready => ⟨?_, ?_⟩, fun hvalid => ?_⟩
  · simpa [hvalid, hready] using hoffered
  · simpa [hready] using hoffered
  · rw [State.clockEdge_of_ready hready, if_pos hvalid] at h
    obtain rfl := Host.Outcome.next.inj h
    rfl
  · simpa [hvalid] using hoffered

/-- Settles O52: a pending response is driven, keeps cmd_ready at 0, and is taken at an edge with rsp_ready = 1 alone. -/
theorem responseTransfer : Obligations.ResponseTransfer := by
  intro s p hp hrst
  refine ⟨by simp [State.portOut, hp, hrst], rfl, ?_, fun hready => ?_, fun hready => ?_⟩
  · simp [State.portOut, State.ready, hp]
  · refine ⟨_, State.clockEdge_of_pending hrst hp, ?_⟩
    rw [if_neg (by simp [hready])]
    rfl
  · refine ⟨_, State.clockEdge_of_pending hrst hp, ?_⟩
    rw [if_pos hready]
    rfl

end Sys2Proof.Machine

/-! PROOFS. The compression function, the schedule and its 16-word window, and the engine's phases (R63, R66, R67, R73,
R74, R78). -/

namespace Sys2Proof.Machine

/-! ### The engine's phases -/

/-- Settles O12: the 66 steps are `State.compressBuf`, which writes H and the hidden engine state alone. -/
theorem enginePhasesComputeCompress : Obligations.EnginePhasesComputeCompress := by
  intro s hl
  exact ⟨s.compressBuf, s.engineStep_iterate_compressBuf hl, by rw [State.compressBuf_engine]; rfl, rfl⟩

/-! ### The schedule -/

/-- Settles O10: the recurrence that the expansion loop keeps, read at the indices of the schedule. -/
theorem expandFollowsTheRecurrence : Obligations.ExpandFollowsTheRecurrence := by
  intro m
  have hget (j : Nat) (hj : j < 64) : (expand m)[j] = (expand m).getD j 0 := (vector_getD_eq _ 0 j hj).symm
  refine ⟨fun i h => ?_, fun i h16 h => ?_⟩
  · exact (hget i (by omega)).trans (expand_getD_block m i h)
  · simp only [hget]
    exact expand_getD_scheduleWord m i h16 h

/-! ### The 16-word window -/

/-- What the window holds after `t` rounds (R74): at its index modulo 16 each of the last 16 words of the schedule of `m`
that are known by then, those of the block among them. -/
def WindowHolds (m v : Block) (t : Nat) : Prop :=
  ∀ i, i < 16 ∨ i < t → t ≤ i + 16 → v.getD (i % 16) 0 = (expand m).getD i 0

/-- Before round 0 the window is the block. -/
theorem windowHolds_zero (m : Block) : WindowHolds m m 0 := by
  intro i hi _
  have hi : i < 16 := by omega
  rw [Nat.mod_eq_of_lt hi, expand_getD_block _ _ hi, vector_getD_eq _ _ _ hi]

/-- The word that round `t` forms out of the window is word `t` of the schedule: W[t − 16] stands at index t mod 16. -/
theorem WindowHolds.scheduleSum_eq {m v : Block} {t : Nat} (hv : WindowHolds m v t) (h16 : 16 ≤ t) (h64 : t < 64) :
    scheduleSum (v.getD ((t - 2) % 16) 0) (v.getD ((t - 7) % 16) 0) (v.getD ((t - 15) % 16) 0) (v.getD (t % 16) 0) =
      (expand m).getD t 0 := by
  have hmod : t % 16 = (t - 16) % 16 := by omega
  rw [expand_getD_scheduleWord m t h16 h64, scheduleWord, hmod, hv (t - 2) (by omega) (by omega),
    hv (t - 7) (by omega) (by omega), hv (t - 15) (by omega) (by omega), hv (t - 16) (by omega) (by omega)]

/-- Round `t` puts word `t` in the place of word t − 16, the one index of the last 16 that is t modulo 16. -/
theorem WindowHolds.windowUpdate {m v : Block} {t : Nat} (hv : WindowHolds m v t) (h64 : t < 64) :
    WindowHolds m (windowUpdate v t) (t + 1) := by
  intro i hi hlast
  unfold Machine.windowUpdate
  by_cases h16 : t < 16
  · rw [if_pos h16]
    exact hv i (by omega) (by omega)
  · rw [if_neg h16, hv.scheduleSum_eq (by omega) h64]
    by_cases hit : i = t
    · subst hit
      exact vector_getD_set_self _ _ _ (by omega)
    · rw [vector_getD_set_ne _ _ _ _ (by omega)]
      exact hv i (by omega) (by omega)

theorem windowAfter_holds (m : Block) (t : Nat) (h : t ≤ 64) : WindowHolds m (windowAfter m t) t := by
  induction t with
  | zero => exact windowHolds_zero m
  | succ t ih => exact (ih (by omega)).windowUpdate h

/-- Settles O11: after round t the window holds word t. -/
theorem windowYieldsTheSchedule : Obligations.WindowYieldsTheSchedule := by
  intro m t h
  rw [← vector_getD_eq _ 0 t h]
  exact windowAfter_holds m (t + 1) h t (by omega) (by omega)

/-! ### The functions of the compression, bit by bit -/

/-- Settles O8: below 32 − n the bit comes from the right shift, and from there on from the left shift. -/
theorem rotrMovesEveryBit : Obligations.RotrMovesEveryBit := by
  intro x n i _ hn32 hi
  rw [rotr, BitVec.getLsbD_or, BitVec.getLsbD_ushiftRight, BitVec.getLsbD_shiftLeft]
  by_cases hlow : i + n < 32
  · have hleft : i < 32 - n := by omega
    rw [Nat.mod_eq_of_lt hlow]
    simp [hleft, Nat.add_comm]
  · have hleft : ¬ i < 32 - n := by omega
    have hwrap : (i + n) % 32 = i - (32 - n) := by omega
    have hright : x.getLsbD (n + i) = false := BitVec.getLsbD_of_ge x _ (by omega)
    simp [hi, hleft, hright, hwrap]

theorem ch_getLsbD (x y z : Word) (i : Nat) :
    (ch x y z).getLsbD i = if x.getLsbD i then y.getLsbD i else z.getLsbD i := by
  by_cases hi : i < 32
  · rw [ch, BitVec.getLsbD_xor, BitVec.getLsbD_and, BitVec.getLsbD_and, BitVec.getLsbD_not]
    cases x.getLsbD i <;> simp [hi]
  · simp [ch, BitVec.getLsbD_of_ge _ i (Nat.le_of_not_lt hi)]

theorem maj_getLsbD (x y z : Word) (i : Nat) :
    (maj x y z).getLsbD i =
      decide (2 ≤ (x.getLsbD i).toNat + (y.getLsbD i).toNat + (z.getLsbD i).toNat) := by
  rw [maj, BitVec.getLsbD_xor, BitVec.getLsbD_xor, BitVec.getLsbD_and, BitVec.getLsbD_and, BitVec.getLsbD_and]
  generalize x.getLsbD i = a
  generalize y.getLsbD i = b
  generalize z.getLsbD i = c
  revert a b c
  decide

/-- Settles O9: each by the value of the three bits. -/
theorem chChoosesAndMajIsTheMajority : Obligations.ChChoosesAndMajIsTheMajority :=
  fun x y z i => ⟨ch_getLsbD x y z i, maj_getLsbD x y z i⟩

end Sys2Proof.Machine

/-! PROOFS. The framer: the padded message and its blocks, the commands of a streamed message, and the two strategies
(R79 to R88). -/

namespace Sys2Proof.Machine

/-! ### The padded message -/

/-- Settles O14: two numbers of zeros that both fill the last block differ by a multiple of 64, and z is below 64. -/
theorem paddedLengthIsAMultipleOf64 : Obligations.PaddedLengthIsAMultipleOf64 := by
  intro m
  obtain ⟨hz, hmod⟩ := padZeros_spec m.length
  have hlen := padded_length m
  exact ⟨hlen, hlen ▸ hmod, fun z hz' => by omega, by omega⟩

theorem blocksOf_length (bytes : List Byte) : (blocksOf bytes).length = bytes.length / 64 := by simp [blocksOf]

/-- Settles O16: the terminator and the length field spill into one more block when the rest has 56 bytes or more. -/
theorem blocksOfAMessage : Obligations.BlocksOfAMessage := by
  intro m
  obtain ⟨hz, hmod⟩ := padZeros_spec m.length
  rw [blocksOf_length, padded_length]
  refine ⟨by congr 1; omega, ?_⟩
  by_cases hs : 56 ≤ m.length % 64
  · rw [if_pos hs]
    omega
  · rw [if_neg hs]
    omega

/-! ### INIT -/

/-- Settles O20: STATUS of the new message is 0. -/
theorem initStartsAMessage : Obligations.InitStartsAMessage := by
  intro s
  have hstatus : s.startMessage.status = 0 := s.startMessage.status_open rfl rfl
  show Host.Outcome.next (s.startMessage.respond s.startMessage.status) = _
  rw [hstatus]
  rfl

/-- Settles O39: reset and INIT start a message alike. -/
theorem newMessageIsEmpty : Obligations.NewMessageIsEmpty :=
  ⟨fun m => (State.resetWith m).startMessage_absorbed, fun s => ⟨_, rfl, s.startMessage_absorbed⟩⟩

/-! ### ABSORB -/

/-- ABSORB with no error bit set, the message open and LEN not LEN_MAX is performed (R85). -/
theorem exec_absorb_performed {s : State} (herr : s.err = noErrors) (hf : s.flag = .streaming)
    (hlen : s.len ≠ Config.lenMax) (b : Byte) : exec (.absorb b) s = .next (s.absorbByte b).respondStatus := by
  simp only [exec, execAbsorb, s.absorbCheck_perform.2 ⟨herr, hf, hlen⟩, State.guarded]

/-- STATUS after an ABSORB performed is the new IDX alone (R25, R82). -/
theorem State.absorbByte_status {s : State} (herr : s.err = noErrors) (hf : s.flag = .streaming) (b : Byte) :
    (s.absorbByte b).status = BitVec.ofNat 64 (8 * ((s.idx.val + 1) % 64)) := by
  obtain ⟨h, buf, idx, e, heq, hidx, -⟩ := s.absorbByte_spec b
  rw [heq, ← hidx]
  exact State.status_open _ herr hf

/-- Settles O22: the byte is stored, and the block is not full. -/
theorem absorbStoresTheByte : Obligations.AbsorbStoresTheByte := by
  intro s byte herr hf hlen hi
  have hmod : (s.idx.val + 1) % 64 = s.idx.val + 1 := by omega
  have hpart : s.absorbByte byte = s.storeByte byte := s.absorbByte_part byte (by omega)
  have hstatus := State.absorbByte_status herr hf byte
  rw [hpart, hmod] at hstatus
  refine ⟨(s.storeByte byte).respondStatus, ?_, ?_, ?_, fun j hj => ?_⟩
  · rw [exec_absorb_performed herr hf hlen, hpart]
  · rw [State.respondStatus, hstatus]
    rfl
  · exact (s.storeByte_idx_val byte).trans hmod
  · show (s.buf.set s.idx.val byte s.idx.isLt)[j] = _
    rw [Vector.getElem_set]
    exact if_congr eq_comm rfl rfl

/-- The words of BUF when its last byte has been stored (R37, R82). -/
theorem bufferWords_set_last (buf : Buffer) {i : Nat} (h : i < 64) (hi : i = 63) (b : Byte) :
    bufferWords (buf.set i b h) = blockAt (buf.toList.take 63 ++ [b]) 0 := by
  subst hi
  have hlist : (buf.set 63 b).toList = buf.toList.take 63 ++ [b] := by
    rw [Vector.toList_set, List.set_eq_take_append_cons_drop, if_pos (by simp), List.drop_of_length_le (by simp)]
  exact congrArg (blockAt · 0) hlist

/-- Settles O23: the byte is stored, and the full block is compressed. -/
theorem absorbCompressesAFullBlock : Obligations.AbsorbCompressesAFullBlock := by
  intro s byte herr hf hlen hi
  have hstatus : (s.absorbByte byte).status = 0 := by rw [State.absorbByte_status herr hf, hi]; rfl
  obtain ⟨h, buf, idx, e, heq, hidx, -, -, hfull⟩ := s.absorbByte_spec byte
  obtain ⟨rfl, rfl, rfl⟩ := hfull (by omega)
  have hidx : idx = 0 := Fin.ext (by rw [hidx, hi]; rfl)
  rw [bufferWords_set_last s.buf s.idx.isLt hi byte, hidx] at heq
  refine ⟨_, exec_absorb_performed herr hf hlen byte, ?_, ?_⟩
  · rw [heq]
    rfl
  · rw [State.respondStatus, hstatus, heq]
    rfl

/-! ### Errors of the framer's commands -/

/-- An error raised: its bit and the response are all that changes (R96, R97). -/
theorem State.raise_eq (s : State) (c : ErrorCause) :
    s.raise c = { s with err := s.err.set c, rspData := (s.raise c).status, rspPending := true, busy := false,
                         pos := .idle } := by
  cases s
  rfl

/-- Settles O27: the range check is the one that fails. -/
theorem hashMemOutOfRange : Obligations.HashMemOutOfRange := by
  intro s n hn
  have hcheck : s.hashCheck n = .error .range := if_pos hn
  refine ⟨s.raise .range, ?_, s.raise_eq .range⟩
  simp only [exec, execHashMem, hcheck, State.guarded]

/-- Settles O31: both commands fail at the check of FLAG. -/
theorem closedMessageRaisesErrSeq : Obligations.ClosedMessageRaisesErrSeq := by
  intro s byte herr hf
  have habsorb : s.absorbCheck = .error .seq := by simp [State.absorbCheck, ErrorBits.any, herr, hf]
  have hfinish : s.finishCheck = .error .seq := by simp [State.finishCheck, ErrorBits.any, herr, hf]
  have hset : s.err.set .seq = ⟨false, true, false, false⟩ := by rw [herr]; rfl
  refine ⟨s.raise .seq, ?_, ?_, hset ▸ s.raise_eq .seq⟩
  · simp only [exec, execAbsorb, habsorb, State.guarded]
  · simp only [exec, execFinish, hfinish, State.guarded]

/-! ### FINISH and the two strategies -/

/-- The message `m` is closed: its digest is in H, its length in LEN, BUF and IDX are cleared, FLAG follows the boundary
decision, and no error bit is set (R83, R87). -/
structure State.Closed (s : State) (m : List Byte) : Prop where
  h : s.h = sha256 m
  len : s.len.toNat = m.length
  idx : s.idx = 0
  buf : s.buf = zeroBuffer
  flag : s.flag = paddingFlag (m.length % 64)
  err : s.err = noErrors

/-- A response leaves the message closed (R52). -/
theorem State.Closed.respondStatus {s : State} {m : List Byte} (hs : s.Closed m) : s.respondStatus.Closed m :=
  ⟨hs.h, hs.len, hs.idx, hs.buf, hs.flag, hs.err⟩

/-- `finish()` closes the open message (R83). -/
theorem State.Absorbed.finishMessage_closed {s : State} {m : List Byte} (hs : s.Absorbed m) :
    s.finishMessage.Closed m := by
  have hh := hs.finishMessage_h
  obtain ⟨-, -, herr, hlen, hidx, -⟩ := hs
  obtain ⟨ms, -, heq⟩ := s.finishMessage_spec
  rw [heq, hidx] at hh ⊢
  exact ⟨hh, hlen, rfl, rfl, rfl, herr⟩

/-- FINISH of the open message is performed and closes it (R86). -/
theorem State.Absorbed.exec_finish {s : State} {m : List Byte} (hs : s.Absorbed m) :
    ∃ t, exec .finish s = .next t ∧ t.Closed m := by
  have hclosed := hs.finishMessage_closed.respondStatus
  obtain ⟨-, hf, herr, -⟩ := hs
  exact ⟨_, exec_finish_performed herr hf, hclosed⟩

/-- HASH_MEM performed leaves its message closed (R87). -/
theorem State.hashMessage_closed (s : State) {n : Nat} (hn : n ≤ s.msgSize) :
    (s.hashMessage n).Closed (s.message n) := by
  have hsize := s.msgSize_le
  have hlength := s.message_length n
  have hlen : (BitVec.ofNat 64 n).toNat = n := by rw [BitVec.toNat_ofNat]; omega
  rw [s.hashMessage_spec]
  exact ⟨rfl, hlen.trans hlength.symm, rfl, rfl, by rw [hlength], rfl⟩

/-- Settles O41: FINISH closes the message, with the boundary decision in FLAG. -/
theorem finishLeavesTheDigest : Obligations.FinishLeavesTheDigest := by
  intro s m hs
  obtain ⟨t, ht, hclosed⟩ := hs.exec_finish
  exact ⟨t, ht, hclosed.h, hclosed.len, hclosed.idx, hclosed.flag, hclosed.err⟩

/-- INIT, the ABSORBs of a message and FINISH close it (R84 to R86). -/
theorem execAll_init_absorb_finish (s : State) (m : List Byte) (hm : m.length ≤ 2 ^ 61 - 1) :
    ∃ t, execAll ([.init] ++ m.map .absorb ++ [.finish]) s = .next t ∧ t.Closed m := by
  obtain ⟨u, hu, hopen⟩ := execAll_init_absorb s m hm
  obtain ⟨t, ht, hclosed⟩ := hopen.exec_finish
  refine ⟨t, ?_, hclosed⟩
  rw [execAll_append _ _ _ _ hu, execAll, ht]
  rfl

/-- The ABSORBs of the bytes of MSG are those of the message of a HASH_MEM (R44). -/
theorem State.message_map_absorb (s : State) (n : Nat) :
    (s.message n).map Instr.absorb = (List.range n).map fun a => .absorb (s.memRead a) :=
  List.map_map

/-- Settles O42: both strategies leave the same message closed. -/
theorem strategiesAgree : Obligations.StrategiesAgree := by
  intro s n hn
  have hn : n ≤ s.msgSize := hn
  have hsize := s.msgSize_le
  have hlength := s.message_length n
  have ht := (s.hashMessage_closed hn).respondStatus
  obtain ⟨u, hexec, hu⟩ := execAll_init_absorb_finish s (s.message n) (by omega)
  rw [s.message_map_absorb] at hexec
  exact ⟨_, u, exec_hashMem_performed hn, hexec, ht.h.trans hu.h.symm,
    BitVec.eq_of_toNat_eq (ht.len.trans hu.len.symm), ht.idx.trans hu.idx.symm, ht.buf.trans hu.buf.symm,
    ht.flag.trans hu.flag.symm, ht.err.trans hu.err.symm⟩

end Sys2Proof.Machine

/-! PROOFS. Errors: the one verdict of all the checks of a command word, and what a word does under it (R96 to R100). -/

namespace Sys2Proof.Machine

/-! ### The verdict of a word -/

/-- What the checks of a command decide; a command that has none is performed (R98, R100). -/
def State.check (s : State) : Instr → Verdict
  | .absorb _ => s.absorbCheck
  | .finish => s.finishCheck
  | .hashMem n => s.hashCheck n
  | .init | .rdDigest _ | .rdStatus | .rdLen => .perform

/-- What steps 1 to 6 of R100 decide for a command word. -/
def State.verdict (s : State) (w : Word64) : Verdict :=
  match decode w with
  | .ok i => s.check i
  | .error _ => .error .cmd

theorem State.verdict_of_decode {w : Word64} {i : Instr} (s : State) (hw : decode w = .ok i) :
    s.verdict w = s.check i := by
  simp only [State.verdict, hw]

theorem State.verdict_of_reject {w : Word64} {r : Reject} (s : State) (hw : decode w = .error r) :
    s.verdict w = .error .cmd := by
  simp only [State.verdict, hw]

@[simp] theorem State.absorbByte_err (s : State) (b : Byte) : (s.absorbByte b).err = s.err := by
  obtain ⟨h, buf, idx, e, heq, -⟩ := s.absorbByte_spec b
  rw [heq]

@[simp] theorem State.finishMessage_err (s : State) : s.finishMessage.err = s.err := by
  obtain ⟨ms, -, heq⟩ := s.finishMessage_spec
  rw [heq]

/-- A command is guarded by its checks; performed, it leaves the error bits or clears them (R97 to R100). -/
theorem exec_guarded (i : Instr) (s : State) :
    ∃ p, exec i s = .next (s.guarded (s.check i) p) ∧ (p.err = s.err ∨ p.err = noErrors) := by
  cases i with
  | init => exact ⟨_, rfl, .inr rfl⟩
  | absorb b => exact ⟨(s.absorbByte b).respondStatus, rfl, .inl (by simp)⟩
  | finish => exact ⟨s.finishMessage.respondStatus, rfl, .inl (by simp)⟩
  | hashMem n => exact ⟨(s.hashMessage n).respondStatus, rfl, .inr rfl⟩
  | rdDigest k | rdStatus | rdLen => exact ⟨_, rfl, .inl rfl⟩

/-- A word is guarded by its verdict; performed, it leaves the error bits or clears them (R97 to R100). -/
theorem execWord_guarded (w : Word64) (s : State) :
    ∃ p, execWord w s = .next (s.guarded (s.verdict w) p) ∧ (p.err = s.err ∨ p.err = noErrors) := by
  cases hw : decode w with
  | ok i =>
    rw [execWord_of_decode s hw, s.verdict_of_decode hw]
    exact exec_guarded i s
  | error r =>
    rw [execWord_of_reject s hw, s.verdict_of_reject hw]
    exact ⟨s, rfl, .inl rfl⟩

/-- A gated command's answer: the response is all that changes (R98). -/
theorem State.respondStatus_eq (s : State) :
    s.respondStatus = { s with err := s.err, rspData := s.respondStatus.status, rspPending := true, busy := false,
                               pos := .idle } := by
  cases s
  rfl

/-! ### The gate and the closed message -/

/-- The gate stands before every other check of FINISH (R98, R100). -/
theorem State.finishCheck_gated {s : State} (herr : s.err ≠ noErrors) : s.finishCheck = .gated :=
  if_pos (Bool.eq_true_of_not_eq_false (mt s.err.any_eq_false.1 herr))

/-- FINISH behind the gate, with the message closed (R86). -/
theorem State.finishCheck_closed {s : State} (herr : s.err = noErrors) (hf : s.flag ≠ .streaming) :
    s.finishCheck = .error .seq := by
  simp [State.finishCheck, s.err.any_eq_false.2 herr, hf]

/-- ABSORB has the checks of FINISH and then the one of LEN (R85, R86). -/
theorem State.absorbCheck_eq (s : State) :
    s.absorbCheck =
      if s.finishCheck = .perform then (if s.len = Config.lenMax then .error .len else .perform)
      else s.finishCheck := by
  unfold State.absorbCheck State.finishCheck
  by_cases herr : s.err.any = true
  · simp [herr]
  · by_cases hf : s.flag = .streaming <;> simp [herr, hf]

/-- Where FINISH is not performed, ABSORB and FINISH share their verdict (R85, R86). -/
theorem State.verdict_framer {s : State} {w : Word64}
    (hw : (∃ b, decode w = .ok (.absorb b)) ∨ decode w = .ok .finish) (hcheck : s.finishCheck ≠ .perform) :
    s.verdict w = s.finishCheck := by
  obtain ⟨b, hw⟩ | hw := hw
  · exact (s.verdict_of_decode hw).trans (s.absorbCheck_eq.trans (if_neg hcheck))
  · exact s.verdict_of_decode hw

/-! ### The obligations -/

/-- Settles O34: each clause names the verdict of the word. -/
theorem checksAreMadeInOrder : Obligations.ChecksAreMadeInOrder := by
  intro w s
  obtain ⟨p, hp, hperr⟩ := execWord_guarded w s
  refine ⟨_, hp, ?_, ?_, ?_, ?_, ?_, ?_⟩
  · rintro ⟨r, hw⟩
    rw [s.verdict_of_reject hw]
    exact s.raise_eq .cmd
  · rintro ⟨n, hw, hn⟩
    have hv : s.verdict w = .error .range := (s.verdict_of_decode hw).trans (if_pos hn)
    rw [hv]
    exact s.raise_eq .range
  · intro hw herr
    have hcheck := State.finishCheck_gated herr
    have hv : s.verdict w = .gated := (State.verdict_framer hw (by simp [hcheck])).trans hcheck
    rw [hv]
    exact s.respondStatus_eq
  · intro hw herr hf
    have hcheck := State.finishCheck_closed herr hf
    have hv : s.verdict w = .error .seq := (State.verdict_framer hw (by simp [hcheck])).trans hcheck
    rw [hv]
    exact s.raise_eq .seq
  · rintro ⟨b, hw⟩ herr hf hlen
    have hmax : s.len = Config.lenMax := BitVec.eq_of_toNat_eq hlen
    have hv : s.verdict w = .error .len := by
      rw [s.verdict_of_decode hw, State.check, s.absorbCheck_eq, if_pos (s.finishCheck_perform.2 ⟨herr, hf⟩),
        if_pos hmax]
    rw [hv]
    exact s.raise_eq .len
  · intro hlegal hshort hopen hlen
    have hv : s.verdict w = .perform := by
      cases hw : decode w with
      | error r => exact absurd ⟨r, hw⟩ hlegal
      | ok i =>
        rw [s.verdict_of_decode hw]
        cases i with
        | init | rdDigest k | rdStatus | rdLen => rfl
        | absorb b =>
          obtain ⟨herr, hf⟩ := hopen (.inl ⟨b, hw⟩)
          have hmax : s.len ≠ Config.lenMax := fun h => hlen ⟨b, hw⟩ (congrArg BitVec.toNat h)
          exact s.absorbCheck_perform.2 ⟨herr, hf, hmax⟩
        | finish => exact s.finishCheck_perform.2 (hopen (.inr hw))
        | hashMem n =>
          have hn : n ≤ s.msgSize := not_lt.1 fun h => hshort ⟨n, hw, h⟩
          exact (s.hashCheck_perform n).2 hn
    rw [hv]
    exact hperr

/-- Settles O33: the verdict of such a word is an error. -/
theorem errorsArePrecise : Obligations.ErrorsArePrecise := by
  intro w s t h hne hsome
  obtain ⟨p, hp, hperr⟩ := execWord_guarded w s
  obtain rfl : s.guarded (s.verdict w) p = t := Host.Outcome.next.inj (hp.symm.trans h)
  cases hv : s.verdict w with
  | perform =>
    rw [hv] at hne hsome
    exact absurd hperr (not_or.2 ⟨hne, hsome⟩)
  | gated =>
    rw [hv] at hne
    exact absurd s.respondStatus_err hne
  | error c =>
    refine ⟨?_, s.raise_eq c⟩
    cases c with
    | cmd => exact .inl rfl
    | seq => exact .inr (.inl rfl)
    | len => exact .inr (.inr (.inl rfl))
    | range => exact .inr (.inr (.inr rfl))

/-- Settles O30: the gate is the first check of both commands. -/
theorem gatedCommandsDoNothing : Obligations.GatedCommandsDoNothing := by
  intro s byte herr
  have hfinish := State.finishCheck_gated herr
  have habsorb : s.absorbCheck = .gated := s.absorbCheck_eq.trans ((if_neg (by simp [hfinish])).trans hfinish)
  constructor
  · simp only [exec, execAbsorb, habsorb, State.guarded, State.respondStatus, State.respond]
  · simp only [exec, execFinish, hfinish, State.guarded, State.respondStatus, State.respond]

end Sys2Proof.Machine

/-! PROOFS. Hazards: the host's write under a HASH_MEM in progress (R115). -/

namespace Sys2Proof.Machine

/-- A write to a byte of the message in progress is refused as such, whatever else is presented: that check comes
before the one of the presented word (R115). -/
theorem State.hostWrite_refused_of_inProgress {s : State} {n a : Nat} (b : Byte) (ha : a < s.msgSize)
    (hn : s.hashInProgress = some n) (hlt : a < n) : s.hostWrite a b = .refused .msgWriteDuringHash := by
  have hin : inMessage s.hashInProgress a = true := by simp [inMessage, hn, hlt]
  rw [State.hostWrite, if_neg (Nat.not_le.2 ha), if_pos hin]

/-- Settles O45: below N the write meets the message in progress, from N up it meets neither message. -/
theorem noWriteUnderHashMem : Obligations.NoWriteUnderHashMem := by
  intro s n a b hn ha
  refine ⟨State.hostWrite_refused_of_inProgress b ha hn, fun hle hoffered => ?_⟩
  refine s.hostWrite_performed b ha (fun k hk => ?_) hoffered
  obtain rfl : n = k := Option.some.inj (hn.symm.trans hk)
  exact hle

end Sys2Proof.Machine
